-- ==== Sys2Proof/Word.lean ====
section
/-! DEFINITION. The fixed-width words of the spec (00_scope R6 to R8, 30_encoding R61). -/

namespace Sys2Proof

/-- An octet, unsigned, bits 7 down to 0 (00_scope, notation). -/
abbrev Octet := BitVec 8

/-- A 16-bit unsigned value, the type of the type/length field (30_encoding R64). -/
abbrev U16 := BitVec 16

/-- The header vector `H[111:0]`, octet `W[k]` at bits `111-8k` down to `104-8k` (30_encoding R61). -/
abbrev Hdr := BitVec 112

end Sys2Proof
end

