-- ==== Sys2Proof/Config.lean ====
section
/-! DEFINITION. What an implementation fixes (00_scope R6 to R10) and the free values: constants without a body, so that
no proof can see what they are. -/

namespace Sys2Proof

/-- `HDR_LEN` (00_scope R6). -/
def Config.hdrLen : Nat := 14

/-- `ADDR_LEN` (00_scope R6). -/
def Config.addrLen : Nat := 6

/-- `TYPE_LEN` (00_scope R6). -/
def Config.typeLen : Nat := 2

/-- `DST_OFF` (00_scope R6). -/
def Config.dstOff : Nat := 0

/-- `SRC_OFF` (00_scope R6). -/
def Config.srcOff : Nat := 6

/-- `TYPE_OFF` (00_scope R6). -/
def Config.typeOff : Nat := 12

/-- The configuration of a machine, the same all through a run (00_scope R7, 92 D15). -/
structure Config where
  /-- `CAPACITY`, the FrameBuffer's size in octets -/
  capacity     : Nat := 65536
  /-- the constraint `CAPACITY >= HDR_LEN` -/
  header_fits  : Config.hdrLen ≤ capacity := by decide
deriving DecidableEq, Repr

/-- The default configuration: `CAPACITY = 65536` (00_scope R7). -/
def Config.default : Config := { }

/-- `LEN_W = ceil(log2(CAPACITY + 1))`, the width of a frame length (00_scope R8). -/
def Config.lenWidth (c : Config) : Nat := Nat.log2 c.capacity + 1

/-- How many whole octets hold a length (DESIGN CHOICE, log 7). -/
def Config.lenOctets (c : Config) : Nat := (c.lenWidth + 7) / 8

/-- How many whole octets hold a response's status and length, `{rsp_status, rsp_len}` (DESIGN CHOICE, log 7). -/
def Config.rspOctets (c : Config) : Nat := (c.lenWidth + 9) / 8

/-- `BUF_ADDR_W = ceil(log2(CAPACITY))`, the width of a buffer offset (00_scope R8). -/
def Config.addrWidth (c : Config) : Nat := Nat.log2 (c.capacity - 1) + 1

/-- `DECODE_LATENCY`, an open parameter that no rule reads (00_scope R10, 93 U8). -/
opaque Config.decodeLatency : Nat

/-- `CAPTURE_PROTO`, an open parameter that no rule reads (00_scope R10, 93 U4). -/
opaque Config.captureProto : Nat

/-- The free value of a FrameBuffer octet that nothing has written since the buffer last became unspecified: epoch, then
offset (10_state R36, 20_memory R45, 93 U5 and U6; log 1, log 2). -/
opaque Config.freeOctet : Nat → Nat → Octet

/-- The free value behind the latch `req_len` when a transaction has ended (10_state R26, 93 U9; log 3). -/
opaque Config.freeLen : Nat → Nat

/-- The free value behind the length of a record that MAKE_RECORD builds from a length outside its operand's range, for which
the spec states no result (41_environment R109; log 24). -/
opaque Config.freeRecordLen : Nat → Nat

end Sys2Proof
end

