-- ==== Sys2Proof/Syntax.lean ====
section
/-! DEFINITION. The values of the spec (40_decode, "Types used") and its operations: one constructor of `Instr` per
row of spec/opcode_table.json. A frame length is an unsigned number (10_state R21): in the script and on the ports it has the
`LEN_W` bits of the configuration (00_scope R8), and the invariant of the machine bounds those that the state holds. -/

namespace Sys2Proof

/-- A 6-octet address, the octet at the lowest offset first (20_memory R47, 40_decode R81). -/
structure Addr where
  o0 : Octet
  o1 : Octet
  o2 : Octet
  o3 : Octet
  o4 : Octet
  o5 : Octet
deriving DecidableEq, Repr

/-- What `DECODE` returns (10_state R22, 40_decode R87): the type/length field is already a number. -/
structure Header where
  dst   : Addr
  src   : Addr
  proto : U16
deriving DecidableEq, Repr

/-- The DecodedRecord (10_state R23): `len` is the whole frame's octet count. -/
structure Record where
  len   : Nat
  dst   : Addr
  src   : Addr
  proto : U16
deriving DecidableEq, Repr

/-- `Result T = Ok(T) | Err(TruncatedFrame)` (40_decode): the failing arm has no fields (30_encoding R70). -/
inductive Result (α : Type) where
  | ok (v : α)
  | truncated
deriving DecidableEq, Repr

/-- The operations. Block: rules R80 to R91, R140; environment: rules R100 to R116. -/
inductive Instr where
  /-- CHECK_LEN, R80 (LEN17) -/
  | checkLen (n : Nat)
  /-- GET_DST, R81 (HDR112) -/
  | getDst (h : Hdr)
  /-- GET_SRC, R82 (HDR112) -/
  | getSrc (h : Hdr)
  /-- NTOH16, R83 (OCT2): `a` received first -/
  | ntoh16 (a b : Octet)
  /-- SWAP16, R84 (W16) -/
  | swap16 (x : U16)
  /-- LE16, R85 (OCT2): `a` at the lower address -/
  | le16 (a b : Octet)
  /-- BE16, R85 (OCT2): `a` at the lower address -/
  | be16 (a b : Octet)
  /-- GET_TYPE, R86 (HDR112) -/
  | getType (h : Hdr)
  /-- DECODE, R87 (LEN17+HDR112): window length and the window's header octets -/
  | decode (n : Nat) (h : Hdr)
  /-- PARSE, R89, R90 (REQ17): the request -/
  | parse (n : Nat)
  /-- PARSE.RSP_OK, R70, R90, R91 (RSP131, status 00): the response with this record is taken -/
  | rspOk (r : Record)
  /-- PARSE.RSP_TRUNC, R70, R90, R91 (RSP131, status 01): the response without fields is taken -/
  | rspTrunc
  /-- RESET, R140 (EVENT) -/
  | reset
  /-- ACQUIRE, R100 (ENV) -/
  | acquire
  /-- LOOP_ITER, R116 (ENV) -/
  | loopIter
  /-- CANCEL, R108 (EVENT) -/
  | cancel
  /-- MAKE_RECORD, R109 (ENV) -/
  | makeRecord (n : Nat) (h : Header)
  /-- HEX2, R110 (TEXT) -/
  | hex2 (o : Octet)
  /-- HEX4, R110 (TEXT) -/
  | hex4 (v : U16)
  /-- ADDR, R111 (TEXT) -/
  | addr (a : Addr)
  /-- DEC, R112 (TEXT) -/
  | dec (n : Nat)
  /-- RENDER_LINE, R113 (TEXT) -/
  | renderLine (r : Record)
deriving DecidableEq, Repr

end Sys2Proof
end

