-- ==== Sys2Proof/WellFormed.lean ====
section
/-! DEFINITION. Which operations are well formed: the operand ranges the spec gives. -/

namespace Sys2Proof

/-- Why an operation is ill formed. -/
inductive Defect where
  /-- a window's or a request's length above `CAPACITY` (30_encoding R68, 40_decode R80, R87, R89) -/
  | lengthBeyondCapacity
  /-- a length that `LEN_W` bits do not hold (00_scope R8) -/
  | lengthTooWide
deriving DecidableEq, Repr

/-- The length of a window or of a request is at most `CAPACITY` (10_state R21). -/
def windowDefect (c : Config) (n : Nat) : Option Defect :=
  if n ≤ c.capacity then none else some .lengthBeyondCapacity

/-- A length is a number of `LEN_W` bits (00_scope R8). -/
def widthDefect (c : Config) (n : Nat) : Option Defect :=
  if n < 2 ^ c.lenWidth then none else some .lengthTooWide

/-- The defect of an operation in a machine of this configuration, `none` for a well-formed one. -/
def Instr.defect (c : Config) : Instr → Option Defect
  | .checkLen n => windowDefect c n
  | .getDst _ => none
  | .getSrc _ => none
  | .ntoh16 _ _ => none
  | .swap16 _ => none
  | .le16 _ _ => none
  | .be16 _ _ => none
  | .getType _ => none
  | .decode n _ => windowDefect c n
  | .parse n => windowDefect c n
  | .rspOk r => widthDefect c r.len
  | .rspTrunc => none
  | .reset => none
  | .acquire => none
  | .loopIter => none
  | .cancel => none
  | .makeRecord n _ => widthDefect c n
  | .hex2 _ => none
  | .hex4 _ => none
  | .addr _ => none
  | .dec n => widthDefect c n
  | .renderLine r => widthDefect c r.len

/-- The operation's operands are in the ranges the spec gives. -/
abbrev Instr.WellFormed (c : Config) (i : Instr) : Prop := i.defect c = none

end Sys2Proof
end

