-- ==== Sys2Proof/Decode.lean ====
section
/-! DEFINITION. The script's octets: decoder, then encoder. No operation has an opcode (30_encoding R75), so each
operation in the script is a selector octet (the row's number in spec/opcode_table.json, DESIGN CHOICE, log 7) followed by
the row's own vector in whole octets, most significant first (30_encoding R61). -/

namespace Sys2Proof

/-- Why octets are no operation. -/
inductive DecodeError where
  /-- the octets end inside an operation -/
  | scriptEnds
  /-- the selector octet names no operation of the table -/
  | unknownSelector (sel : Octet)
  /-- a bit above the row's own vector is set -/
  | reservedBits
  /-- a response with `rsp_status` 2 or 3, which the block never produces (30_encoding R70) -/
  | statusNeverProduced
  /-- the operands are out of the spec's ranges -/
  | illFormed (d : Defect)
deriving DecidableEq, Repr

/-- What a reader of operand octets answers: a value and the octets left. -/
abbrev Reading (α : Type) := Except DecodeError (α × List Octet)

/-- One octet. -/
def readOctet : List Octet → Reading Octet
  | a :: rest => .ok (a, rest)
  | [] => .error .scriptEnds

/-- Two octets as they are (OCT2). -/
def readOctets2 : List Octet → Reading (Octet × Octet)
  | a :: b :: rest => .ok ((a, b), rest)
  | _ => .error .scriptEnds

/-- A 16-bit word, upper octet first (W16). -/
def readU16 : List Octet → Reading U16
  | h :: l :: rest => .ok (h ++ l, rest)
  | _ => .error .scriptEnds

/-- The number that `k` octets hold, most significant first, over the number `v` read so far. -/
def readNat : Nat → Nat → List Octet → Reading Nat
  | 0, v, rest => .ok (v, rest)
  | k + 1, v, b :: rest => readNat k (256 * v + b.toNat) rest
  | _ + 1, _, [] => .error .scriptEnds

/-- A length of `LEN_W` bits in whole octets; the bits above it are 0 (LEN17: 17 bits in three octets). -/
def readLen (c : Config) (bs : List Octet) : Reading Nat :=
  match readNat c.lenOctets 0 bs with
  | .error e => .error e
  | .ok (n, rest) => if n < 2 ^ c.lenWidth then .ok (n, rest) else .error .reservedBits

/-- Six octets, octet 0 in the most significant position (30_encoding R71). -/
def readAddr : List Octet → Reading Addr
  | a :: b :: c :: d :: e :: f :: rest => .ok (⟨a, b, c, d, e, f⟩, rest)
  | _ => .error .scriptEnds

/-- The header vector `{W[0], ..., W[13]}` (30_encoding R61). -/
def readHdr : List Octet → Reading Hdr
  | w0 :: w1 :: w2 :: w3 :: w4 :: w5 :: w6 :: w7 :: w8 :: w9 :: w10 :: w11 :: w12 :: w13 :: rest =>
    .ok (w0 ++ w1 ++ w2 ++ w3 ++ w4 ++ w5 ++ w6 ++ w7 ++ w8 ++ w9 ++ w10 ++ w11 ++ w12 ++ w13, rest)
  | _ => .error .scriptEnds

/-- One operand after another. -/
def readBoth {α β : Type} (p : List Octet → Reading α) (q : List Octet → Reading β) (bs : List Octet) : Reading (α × β) :=
  match p bs with
  | .error e => .error e
  | .ok (a, rest) =>
    match q rest with
    | .error e => .error e
    | .ok (b, rest') => .ok ((a, b), rest')

/-- Turn a reading into another value. -/
def Reading.map {α β : Type} (f : α → β) : Reading α → Reading β
  | .error e => .error e
  | .ok (a, rest) => .ok (f a, rest)

/-- Two addresses and a 16-bit value: `dst`, `src`, `proto` (30_encoding R60). -/
def readHeader (bs : List Octet) : Reading Header :=
  Reading.map (fun x => ⟨x.1, x.2.1, x.2.2⟩) (readBoth readAddr (readBoth readAddr readU16) bs)

/-- `{len, dst, src, proto}` (RENDER_LINE's row). -/
def readRecord (c : Config) (bs : List Octet) : Reading Record :=
  Reading.map (fun x => ⟨x.1, x.2.dst, x.2.src, x.2.proto⟩) (readBoth (readLen c) readHeader bs)

/-- A response vector `{rsp_status, rsp_len, rsp_dst, rsp_src, rsp_proto}`, 131 bits in 17 octets by default (30_encoding R75):
status and length first, in whole octets, the status above the `LEN_W` bits of the length. With status 01 the other bits hold
any value and are not part of the response (30_encoding R70). -/
def readResponse (c : Config) (bs : List Octet) : Reading Instr :=
  match readNat c.rspOctets 0 bs with
  | .error e => .error e
  | .ok (v, rest) =>
    match v / 2 ^ c.lenWidth with
    | 0 => Reading.map (fun h => Instr.rspOk ⟨v, h.dst, h.src, h.proto⟩) (readHeader rest)
    | 1 => if rest.length < Config.hdrLen then .error .scriptEnds else .ok (.rspTrunc, rest.drop Config.hdrLen)
    | 2 => .error .statusNeverProduced
    | 3 => .error .statusNeverProduced
    | _ => .error .reservedBits

/-- The operation a selector octet names, with its operands. -/
def decodeRow (c : Config) (sel : Octet) (bs : List Octet) : Reading Instr :=
  match sel.toNat with
  | 0 => Reading.map Instr.checkLen (readLen c bs)
  | 1 => Reading.map Instr.getDst (readHdr bs)
  | 2 => Reading.map Instr.getSrc (readHdr bs)
  | 3 => Reading.map (fun x => Instr.ntoh16 x.1 x.2) (readOctets2 bs)
  | 4 => Reading.map Instr.swap16 (readU16 bs)
  | 5 => Reading.map (fun x => Instr.le16 x.1 x.2) (readOctets2 bs)
  | 6 => Reading.map (fun x => Instr.be16 x.1 x.2) (readOctets2 bs)
  | 7 => Reading.map Instr.getType (readHdr bs)
  | 8 => Reading.map (fun x => Instr.decode x.1 x.2) (readBoth (readLen c) readHdr bs)
  | 9 => Reading.map Instr.parse (readLen c bs)
  | 10 => readResponse c bs
  | 12 => .ok (.reset, bs)
  | 13 => .ok (.acquire, bs)
  | 14 => .ok (.loopIter, bs)
  | 15 => .ok (.cancel, bs)
  | 16 => Reading.map (fun x => Instr.makeRecord x.1 x.2) (readBoth (readLen c) readHeader bs)
  | 17 => Reading.map Instr.hex2 (readOctet bs)
  | 18 => Reading.map Instr.hex4 (readU16 bs)
  | 19 => Reading.map Instr.addr (readAddr bs)
  | 20 => Reading.map Instr.dec (readLen c bs)
  | 21 => Reading.map Instr.renderLine (readRecord c bs)
  | _ => .error (.unknownSelector sel)

/-- The first operation of a script and the octets after it. Total; whatever is no well-formed operation is rejected by
name. Selector 10 is a response word; rows 10 and 11 are told apart by `rsp_status`, so selector 11 names nothing. -/
def decode (c : Config) : List Octet → Reading Instr
  | [] => .error .scriptEnds
  | sel :: bs =>
    match decodeRow c sel bs with
    | .error e => .error e
    | .ok (i, rest) =>
      match i.defect c with
      | none => .ok (i, rest)
      | some d => .error (.illFormed d)

/-- How many operand octets the row of a selector octet has: its vector in whole octets (by default 17 bits: 3, 112: 14, 129 and
131: 17; 48: 6, 16: 2, 8: 1; events: none), or the frame's count for selector 22 (log 7); none where it names no row. -/
def rowOctets (c : Config) (sel : Octet) : Nat :=
  match sel.toNat with
  | 0 | 9 | 20 | 22 => c.lenOctets
  | 1 | 2 | 7 => 14
  | 3 | 4 | 5 | 6 | 18 => 2
  | 8 | 16 | 21 => c.lenOctets + 14
  | 10 => c.rspOctets + 14
  | 17 => 1
  | 19 => 6
  | _ => 0

/-- A script without the selector octet it starts with and that row's operand octets. -/
def skipRow (c : Config) : List Octet → List Octet
  | [] => []
  | sel :: bs => bs.drop (rowOctets c sel)

/-- The `k` low octets of a number, most significant first. -/
def octetsOf : Nat → Nat → List Octet
  | 0, _ => []
  | k + 1, w => BitVec.ofNat 8 (w >>> (8 * k)) :: octetsOf k w

/-- A length of `LEN_W` bits in whole octets. -/
def writeLen (c : Config) (n : Nat) : List Octet := octetsOf c.lenOctets n

/-- A 16-bit word, upper octet first. -/
def writeU16 (v : U16) : List Octet :=
  [v.extractLsb' 8 8, v.extractLsb' 0 8]

/-- Six octets in order. -/
def writeAddr (a : Addr) : List Octet :=
  [a.o0, a.o1, a.o2, a.o3, a.o4, a.o5]

/-- The header vector's fourteen octets, `W[0]` first (30_encoding R61). -/
def writeHdr (h : Hdr) : List Octet :=
  [h.extractLsb' 104 8, h.extractLsb' 96 8, h.extractLsb' 88 8, h.extractLsb' 80 8, h.extractLsb' 72 8,
   h.extractLsb' 64 8, h.extractLsb' 56 8, h.extractLsb' 48 8, h.extractLsb' 40 8, h.extractLsb' 32 8,
   h.extractLsb' 24 8, h.extractLsb' 16 8, h.extractLsb' 8 8, h.extractLsb' 0 8]

/-- `dst`, `src`, `proto`. -/
def writeHeader (h : Header) : List Octet :=
  writeAddr h.dst ++ (writeAddr h.src ++ writeU16 h.proto)

/-- `len`, `dst`, `src`, `proto`. -/
def writeRecord (c : Config) (r : Record) : List Octet :=
  writeLen c r.len ++ writeHeader ⟨r.dst, r.src, r.proto⟩

/-- The selector octet: the row's number in the table, 10 for both response rows. -/
def Instr.selector : Instr → Octet
  | .checkLen _ => 0
  | .getDst _ => 1
  | .getSrc _ => 2
  | .ntoh16 _ _ => 3
  | .swap16 _ => 4
  | .le16 _ _ => 5
  | .be16 _ _ => 6
  | .getType _ => 7
  | .decode _ _ => 8
  | .parse _ => 9
  | .rspOk _ => 10
  | .rspTrunc => 10
  | .reset => 12
  | .acquire => 13
  | .loopIter => 14
  | .cancel => 15
  | .makeRecord _ _ => 16
  | .hex2 _ => 17
  | .hex4 _ => 18
  | .addr _ => 19
  | .dec _ => 20
  | .renderLine _ => 21

/-- The operand octets. A truncated response is status 01 over bits that hold any value; the encoder writes 0 there. -/
def Instr.operands (c : Config) : Instr → List Octet
  | .checkLen n => writeLen c n
  | .getDst h => writeHdr h
  | .getSrc h => writeHdr h
  | .ntoh16 a b => [a, b]
  | .swap16 x => writeU16 x
  | .le16 a b => [a, b]
  | .be16 a b => [a, b]
  | .getType h => writeHdr h
  | .decode n h => writeLen c n ++ writeHdr h
  | .parse n => writeLen c n
  | .rspOk r => octetsOf c.rspOctets r.len ++ writeHeader ⟨r.dst, r.src, r.proto⟩
  | .rspTrunc => octetsOf c.rspOctets (2 ^ c.lenWidth) ++ List.replicate Config.hdrLen 0
  | .reset => []
  | .acquire => []
  | .loopIter => []
  | .cancel => []
  | .makeRecord n h => writeLen c n ++ writeHeader h
  | .hex2 o => [o]
  | .hex4 v => writeU16 v
  | .addr a => writeAddr a
  | .dec n => writeLen c n
  | .renderLine r => writeRecord c r

/-- The script octets of an operation. -/
def encode (c : Config) (i : Instr) : List Octet := i.selector :: i.operands c

/-- The operation that bare bits of this width reach, when only their width is known (DESIGN CHOICE, log 7): the table's
vectors hold no opcode, and several rows share a width; the response word is the only one whose bits select (by status). -/
def widthSelector : Nat → Option Octet
  | 0 => some 12
  | 8 => some 17
  | 16 => some 3
  | 24 => some 9
  | 48 => some 19
  | 112 => some 1
  | 136 => some 10
  | _ => none

/-- The script octets of an operation given as the table's bits; a width no row has gives an octet that the decoder
refuses. -/
def tableOctets (nbits w : Nat) : List Octet :=
  match widthSelector nbits with
  | some sel => sel :: octetsOf (nbits / 8) w
  | none => [255]

/-- The operation the decoder reads from a table word, in a machine of the default configuration. -/
def decodeTableWord (nbits w : Nat) : Option Instr :=
  match decode Config.default (tableOctets nbits w) with
  | .ok (i, []) => some i
  | _ => none

end Sys2Proof
end

