-- ==== Sys2Proof/Machine/State.lean ====
section
/-! DEFINITION. The machine's state as plain data, its faults and refusals, and the state after reset (10_state). -/

namespace Sys2Proof.Machine

/-- The block's one bit of sequencing state (10_state R25). -/
inductive Phase where
  | idle
  | busy
deriving DecidableEq, Repr

/-- A response of the block: `Ok(DecodedRecord)` or `Err(TruncatedFrame)` (30_encoding R70). -/
abbrev Response := Result Record

/-- The Frame Source's handle (10_state R34, 70 R144). -/
inductive Handle where
  /-- initialisation failed: `SourceUnavailable` -/
  | unavailable
  /-- open after successful initialisation -/
  | opened
  /-- closed, so that the blocking call fails (41_environment R108) -/
  | closed
deriving DecidableEq, Repr

/-- What the Frame Source reports for one `acquire`, before it is folded into `Ok(n) | Err` (41_environment R100, R101,
90_conflicts C6): `returned` is a call with `bytesRead` = the number of octets and an optional error. -/
inductive Report where
  /-- `bytesRead >= 0` with the frame's octets in received order, and whether an `error` is present -/
  | returned (octets : List Octet) (error : Bool)
  /-- `bytesRead = -(k+1)` -/
  | negative (k : Nat)
  /-- the source is closed and the blocked call fails -/
  | sourceClosed
deriving DecidableEq, Repr

/-- What a call finds when it asks the Frame Source: a report, or nothing yet, and then it goes on blocking
(41_environment R100). -/
abbrev Answer := Option Report

/-- The answer of one `ACQUIRE`: `Ok(n) | Err(AcquisitionFailed)` (41_environment R101). -/
inductive AcqResult where
  | ok (n : Nat)
  | failed
deriving DecidableEq, Repr

/-- Why the Capture Loop is not running: its two exits (41_environment R107) and never having started (60 R123). -/
inductive StopReason where
  | cancelled
  | acquisitionFailed
  | sourceUnavailable
deriving DecidableEq, Repr

/-- Where the Capture Loop is (10_state R28, 41_environment R102 to R107), with the values it holds there. -/
inductive LoopPos where
  /-- step 1: about to test the cancellation flag and call `ACQUIRE` -/
  | step1
  /-- step 1: inside a call of `ACQUIRE` that has not returned (60 R136) -/
  | blocked
  /-- step 2: `ACQUIRE` has returned this answer; the error test is next -/
  | step2 (a : AcqResult)
  /-- step 3: the frame's length is known; the block makes the short-frame test inside `PARSE` -/
  | step3 (n : Nat)
  /-- step 4: the response was this record; it is rendered and handed to the sink next -/
  | step4 (r : Record)
  /-- step 5: back to step 1 next -/
  | step5
  /-- the loop has terminated -/
  | stopped (why : StopReason)
deriving DecidableEq, Repr

/-- A value an operation hands over (`emit(v)`, 00_scope notation). -/
inductive Value where
  /-- a predicate (CHECK_LEN) -/
  | bool (b : Bool)
  /-- an address (GET_DST, GET_SRC) -/
  | addr (a : Addr)
  /-- a 16-bit number -/
  | u16 (v : U16)
  /-- the result of DECODE -/
  | header (r : Result Header)
  /-- a DecodedRecord (MAKE_RECORD) -/
  | record (r : Record)
  /-- the response of a PARSE, when it is taken -/
  | response (r : Response)
  /-- characters -/
  | text (t : List Char)
  /-- what ACQUIRE returned -/
  | acquired (a : AcqResult)
  /-- the loop's exit, observable by its caller -/
  | stopped (why : StopReason)
deriving DecidableEq, Repr

/-- The octets of the FrameBuffer that have been written since it last became unspecified. -/
abbrev Memory := List Host.Cell

/-- The canonical form: addresses strictly rising and inside the FrameBuffer of this configuration. An unlisted offset stands
for an octet nothing has written, so no entry can repeat what an unlisted offset reads as (log 1). -/
abbrev Memory.wf (c : Config) (m : Memory) : Prop :=
  m.Pairwise (fun x y => x.1 < y.1) ∧ ∀ x ∈ m, x.1 < c.capacity

/-- All the state the spec gives the block and its environment, the machine's configuration, which no step changes, and the
model's own fields (`fbEpoch`, `draws`, `answers`, `polls`, `out`, `reads`, `script`). -/
structure State where
  /-- the configuration (00_scope R7, R8; log 9) -/
  config     : Config
  /-- 10_state R25 -/
  phase      : Phase
  /-- the request latch `req_len`, meaningful while busy (10_state R26) -/
  reqLen     : Nat
  /-- the pending response (10_state R36, 40_decode R90) -/
  rsp        : Option Response
  /-- the FrameBuffer (10_state R20) -/
  fb         : Memory
  /-- model's own: which free octets the unlisted offsets read as -/
  fbEpoch    : Nat
  /-- model's own: how many free lengths have been taken (logs 3, 24) -/
  draws      : Nat
  /-- the Frame Source's handle (10_state R34) -/
  handle     : Handle
  /-- model's own: the answers that the environment has placed for the next calls, first to be drawn first (30_encoding R76,
  `ACQ`) -/
  answers    : List Answer
  /-- model's own: how many answers of the oracle itself, the Frame Source's sequence of answers (10_state R35, 41_environment
  R101), have been drawn -/
  polls      : Nat
  /-- the cancellation flag (10_state R34) -/
  cancelFlag : Bool
  /-- the Capture Loop's step, with the current frame length `n` (10_state R21, R28) -/
  pos        : LoopPos
  /-- the lines handed to the Output Sink, oldest first (41_environment R114) -/
  lines      : List (List Char)
  /-- model's own: what the last step handed over; not retained -/
  out        : Option Value
  /-- model's own: the offsets the last step read with MemRead (40_decode R88) -/
  reads      : List Nat
  /-- model's own: the operations the environment has placed, as octets -/
  script     : List Octet
deriving DecidableEq, Repr

/-- The one way the machine stops with a fault. -/
inductive Fault where
  /-- `ACQUIRE` or `LOOP_ITER` while a `PARSE` is open (70_reset_and_hazards R145, 20_memory R57). Safe: the hardware goes
  on with a response that has no defined value. -/
  | bufferRace
deriving DecidableEq, Repr

/-- Why an operation has no meaning. -/
inductive Refusal where
  /-- raised by an arm of `exec` whose instruction has no meaning yet. Safe. -/
  | notModelled (mnemonic : String)
  /-- raised by CHECK_LEN, DECODE and PARSE, and by the step on their script octets, on a length above `CAPACITY`
  (30_encoding R68, 92 D23, 95 V-C). Safe. -/
  | lengthBeyondCapacity
  /-- raised by ACQUIRE and LOOP_ITER, and by the loop's own call, when the environment has placed a frame of more than
  `CAPACITY` octets, a protocol violation (30_encoding R68, 93 U1). Safe. -/
  | frameBeyondCapacity
  /-- raised by the step on a placed response with `rsp_status` 2 or 3, which the block never produces (30_encoding R70,
  93 U11). Safe. -/
  | statusNeverProduced
deriving DecidableEq, Repr

/-- The machine of the default configuration right after reset, the Frame Source initialised (10_state R36, 70 R144). `reqLen`
is unspecified there: 0 is the model's choice (log 3). -/
def State.reset : State where
  config := Config.default
  phase := .idle
  reqLen := 0
  rsp := none
  fb := []
  fbEpoch := 0
  draws := 0
  handle := .opened
  answers := []
  polls := 0
  cancelFlag := false
  pos := .step1
  lines := []
  out := none
  reads := []
  script := []

end Sys2Proof.Machine
end

