-- ==== Sys2Proof/Machine/Operands.lean ====
section
/-! DEFINITION. The operand forms: windows of octets and `MemRead` on them, with the offsets read recorded
(00_scope notation, 20_memory R41, 40_decode R81 to R88). -/

namespace Sys2Proof.Machine

/-- A window `W` of length `L` (00_scope notation). `octet i` means something for `i < len` only. -/
structure Window where
  len   : Nat
  octet : Nat → Octet

/-- A value with the offsets that were read to get it. -/
structure Access (α : Type) where
  value : α
  reads : List Nat

/-- A value got without reading. -/
def Access.pure {α : Type} (v : α) : Access α := ⟨v, []⟩

/-- First one access, then another that may use its value. The offsets are listed in the order of the reads; an order is the
model's choice (DESIGN CHOICE, log 23). -/
def Access.bind {α β : Type} (x : Access α) (f : α → Access β) : Access β :=
  ⟨(f x.value).value, x.reads ++ (f x.value).reads⟩

/-- `MemRead(addr, 1)`: the octet at offset `addr` of the window, the only access there is (20_memory R41). -/
def memRead (W : Window) (a : Nat) : Access Octet := ⟨W.octet a, [a]⟩

/-- Octet `W[k]` of the header vector: bits `111-8k` down to `104-8k` (30_encoding R61). -/
def hdrOctet (h : Hdr) (k : Nat) : Octet := h.extractLsb' (104 - 8 * k) 8

/-- The window of length `L` whose header octets are those of `h`. -/
def hdrWindow (L : Nat) (h : Hdr) : Window := ⟨L, hdrOctet h⟩

/-- Six octets from offset `off` on, in offset order (40_decode R81, R82). -/
def addrAt (W : Window) (off : Nat) : Access Addr :=
  (memRead W off).bind fun a0 =>
  (memRead W (off + 1)).bind fun a1 =>
  (memRead W (off + 2)).bind fun a2 =>
  (memRead W (off + 3)).bind fun a3 =>
  (memRead W (off + 4)).bind fun a4 =>
  (memRead W (off + 5)).bind fun a5 =>
  Access.pure ⟨a0, a1, a2, a3, a4, a5⟩

end Sys2Proof.Machine
end

