-- ==== Sys2Proof/Machine/Convert.lean ====
section
/-! DEFINITION. The network-to-host conversion and the octet swap, with their operations (40_decode R83 to R85). Nothing
here depends on a host's byte order (00_scope R9). -/

namespace Sys2Proof.Machine

/-- `NTOH16(a, b) = (zext_16(a) << 8) | zext_16(b)` (40_decode R83). -/
def ntoh16 (a b : Octet) : U16 := (a.setWidth 16 <<< 8) ||| b.setWidth 16

/-- `SWAP16(x) = ((x & 0x00ff) << 8) | ((x >> 8) & 0x00ff)` (40_decode R84). -/
def swap16 (x : U16) : U16 := ((x &&& 0x00ff#16) <<< 8) ||| ((x >>> 8) &&& 0x00ff#16)

/-- `LE16(a, b) = (zext_16(b) << 8) | zext_16(a)` (40_decode R85). -/
def le16 (a b : Octet) : U16 := (b.setWidth 16 <<< 8) ||| a.setWidth 16

/-- `BE16(a, b) = (zext_16(a) << 8) | zext_16(b)` (40_decode R85). -/
def be16 (a b : Octet) : U16 := (a.setWidth 16 <<< 8) ||| b.setWidth 16

end Sys2Proof.Machine
end

