-- ==== Sys2Proof/Machine/Flags.lean ====
section
/-! DEFINITION. The hardware has no flags (10_state R29). This file holds the one predicate the block computes and does
not store, and the status codes of responses and conditions. -/

namespace Sys2Proof.Machine

/-- `CHECK_LEN(L) = (L >= HDR_LEN)`, unsigned (40_decode R80). -/
def lenOk (L : Nat) : Bool := decide (Config.hdrLen ≤ L)

/-- The three conditions (60_exceptions R120). -/
inductive Condition where
  | truncatedFrame
  | acquisitionFailed
  | sourceUnavailable
deriving DecidableEq, Repr

/-- The code of a condition; 0 is no condition (60_exceptions R124). -/
def conditionCode : Option Condition → BitVec 2
  | none => 0
  | some .truncatedFrame => 1
  | some .acquisitionFailed => 2
  | some .sourceUnavailable => 3

/-- Whether a condition is fatal (60_exceptions R121 to R124). -/
def conditionFatal : Condition → Bool
  | .truncatedFrame => false
  | .acquisitionFailed => true
  | .sourceUnavailable => true

/-- The condition a response reports (60_exceptions R121, R124). -/
def responseCondition : Response → Option Condition
  | .ok _ => none
  | .truncated => some .truncatedFrame

/-- The condition an exit of the loop reports; being cancelled is no error (41_environment R108). -/
def stopCondition : StopReason → Option Condition
  | .cancelled => none
  | .acquisitionFailed => some .acquisitionFailed
  | .sourceUnavailable => some .sourceUnavailable

/-- `rsp_status` (30_encoding R70). -/
def rspStatus (r : Response) : BitVec 2 := conditionCode (responseCondition r)

end Sys2Proof.Machine
end

