-- ==== Sys2Proof/Machine/Header.lean ====
section
/-! DEFINITION. The block's function: field extraction and DECODE on a window (40_decode R81 to R88), and the record
(41_environment R109). -/

namespace Sys2Proof.Machine

/-- `GET_DST(W)` (40_decode R81). -/
def dstOf (W : Window) : Access Addr := addrAt W Config.dstOff

/-- `GET_SRC(W)` (40_decode R82). -/
def srcOf (W : Window) : Access Addr := addrAt W Config.srcOff

/-- `GET_TYPE(W) = NTOH16(MemRead(12,1), MemRead(13,1))` (40_decode R86). -/
def typeOf (W : Window) : Access U16 :=
  (memRead W Config.typeOff).bind fun a =>
  (memRead W (Config.typeOff + 1)).bind fun b =>
  Access.pure (ntoh16 a b)

/-- `DECODE(W, L)`: the length check comes first, and only when it holds is an octet read (40_decode R87, R88, 70 R148).
DESIGN CHOICE: offsets 0 to 13 are read once each, in rising order; 20_memory R42 leaves order and repetition open (log 23). -/
def decodeWindow (W : Window) : Access (Result Header) :=
  if lenOk W.len then
    (dstOf W).bind fun d =>
    (srcOf W).bind fun s =>
    (typeOf W).bind fun t =>
    Access.pure (.ok ⟨d, s, t⟩)
  else Access.pure .truncated

/-- `MAKE_RECORD(n, h)` (41_environment R109). -/
def recordOf (n : Nat) (h : Header) : Record := ⟨n, h.dst, h.src, h.proto⟩

/-- The response made of DECODE's result (40_decode R90). -/
def responseOf (n : Nat) : Result Header → Response
  | .ok h => .ok (recordOf n h)
  | .truncated => .truncated

end Sys2Proof.Machine
end

