-- ==== Sys2Proof/Machine/Render.lean ====
section
/-! DEFINITION. The text of a record (30_encoding R73, 41_environment R110 to R113). -/

namespace Sys2Proof.Machine

/-- The sixteen lowercase digits (41_environment R110). -/
def hexDigits : List Char := ['0', '1', '2', '3', '4', '5', '6', '7', '8', '9', 'a', 'b', 'c', 'd', 'e', 'f']

/-- The digit of a 4-bit value. -/
def hexDigit (x : BitVec 4) : Char := hexDigits.getD x.toNat '0'

/-- `HEX2(o)`: the digits of `o[7:4]` and `o[3:0]` (41_environment R110). -/
def hex2 (o : Octet) : List Char := [hexDigit (o.extractLsb' 4 4), hexDigit (o.extractLsb' 0 4)]

/-- `HEX4(v)`: the digits of `v[15:12]`, `v[11:8]`, `v[7:4]`, `v[3:0]` (41_environment R110). -/
def hex4 (v : U16) : List Char :=
  [hexDigit (v.extractLsb' 12 4), hexDigit (v.extractLsb' 8 4), hexDigit (v.extractLsb' 4 4), hexDigit (v.extractLsb' 0 4)]

/-- `ADDR(a)`: six groups joined by colons, the octet at the lowest offset leftmost (41_environment R111). -/
def renderAddr (a : Addr) : List Char :=
  hex2 a.o0 ++ ':' :: hex2 a.o1 ++ ':' :: hex2 a.o2 ++ ':' :: hex2 a.o3 ++ ':' :: hex2 a.o4 ++ ':' :: hex2 a.o5

/-- The decimal digit of a number below 10. -/
def decDigit (d : Nat) : Char := ['0', '1', '2', '3', '4', '5', '6', '7', '8', '9'].getD d '0'

/-- Decimal digits of `n`, most significant first, no leading zeros; `fuel` bounds the digits after the first. -/
def decDigits : Nat → Nat → List Char
  | 0, n => [decDigit n]
  | fuel + 1, n => if n < 10 then [decDigit n] else decDigits fuel (n / 10) ++ [decDigit (n % 10)]

/-- `DEC(n)`: a number has at most one decimal digit for each of its binary digits (41_environment R112). -/
def renderDec (n : Nat) : List Char := decDigits (Nat.log2 n) n

/-- `Packet (` -/
def textPacket : List Char := ['P', 'a', 'c', 'k', 'e', 't', ' ', '(']

/-- ` bytes): Destination: |` -/
def textDestination : List Char :=
  [' ', 'b', 'y', 't', 'e', 's', ')', ':', ' ', 'D', 'e', 's', 't', 'i', 'n', 'a', 't', 'i', 'o', 'n', ':', ' ', '|']

/-- `| Source: |` -/
def textSource : List Char := ['|', ' ', 'S', 'o', 'u', 'r', 'c', 'e', ':', ' ', '|']

/-- `| Protocol: |0x` -/
def textProtocol : List Char := ['|', ' ', 'P', 'r', 'o', 't', 'o', 'c', 'o', 'l', ':', ' ', '|', '0', 'x']

/-- `RENDER_LINE(r)`, without a terminator (30_encoding R73, 41_environment R113). -/
def renderLine (r : Record) : List Char :=
  textPacket ++ renderDec r.len ++ textDestination ++ renderAddr r.dst ++ textSource ++ renderAddr r.src ++
    textProtocol ++ hex4 r.proto ++ ['|']

end Sys2Proof.Machine
end

