-- ==== Sys2Proof/Machine/Ops.lean ====
section
/-! DEFINITION. The named operations over the state: the FrameBuffer, the transaction, the Frame Source's call, the
Capture Loop's moves, and taking a condition (60_exceptions) and going on after one. -/

namespace Sys2Proof

/-- The oracle: the sequence of answers that the Frame Source gives by itself, of any length, with the waits between them
(10_state R35, 41_environment R101, 92 D25; log 6). A constant without a body: nothing is known of it. -/
opaque Config.sourceAnswer : Nat → Machine.Answer

end Sys2Proof

namespace Sys2Proof.Machine

/-- The three outcomes of an operation of this machine. -/
abbrev Out := Host.Outcome State Fault Refusal

/-- The written octet at an offset, if any. -/
def Memory.read? : Memory → Nat → Option Octet
  | [], _ => none
  | c :: m, a => if c.1 = a then some c.2 else Memory.read? m a

/-- `MemWrite(addr, 1, v)`, keeping the addresses strictly rising (20_memory R45). -/
def Memory.write : Memory → Nat → Octet → Memory
  | [], a, v => [(a, v)]
  | c :: m, a, v =>
    if a < c.1 then (a, v) :: c :: m
    else if a = c.1 then (a, v) :: m
    else c :: Memory.write m a v

/-- `MemWrite(i + k, 1, octet k)` for every octet; the offsets differ, so the order of the writes cannot be seen
(41_environment R100). -/
def Memory.writeFrom (m : Memory) (i : Nat) : List Octet → Memory
  | [] => m
  | o :: os => Memory.write (Memory.writeFrom m (i + 1) os) i o

/-- `FB[a]`: the octet last written there, else the free value of an unspecified octet (20_memory R53, 10_state R36). -/
def State.fbOctet (s : State) (a : Nat) : Octet := (s.fb.read? a).getD (Config.freeOctet s.fbEpoch a)

/-- The window `FB[0..L-1]` (40_decode R89). -/
def State.fbWindow (s : State) (L : Nat) : Window := ⟨L, s.fbOctet⟩

/-- A step starts with nothing handed over and nothing read. -/
def State.fresh (s : State) : State := { s with out := none, reads := [] }

/-- `emit(v)` as an operation's only effect. -/
def State.give (s : State) (v : Value) : State := { s with out := some v, reads := [] }

/-- `emit(v)` of a value got by reading a window. -/
def State.giveRead {α : Type} (s : State) (x : Access α) (f : α → Value) : State :=
  { s with out := some (f x.value), reads := x.reads }

/-- Taking a condition that ends the loop, or being cancelled: the loop stops and its caller sees why; nothing is saved
and there is no way back (60_exceptions R129, R130; 41_environment R107). -/
def State.stop (s : State) (why : StopReason) : State := { s with pos := .stopped why, out := some (.stopped why) }

/-- The Capture Loop's running condition (10_state R34): true until it terminates. -/
def LoopPos.running : LoopPos → Bool
  | .stopped _ => false
  | .step1 => true
  | .blocked => true
  | .step2 _ => true
  | .step3 _ => true
  | .step4 _ => true
  | .step5 => true

/-- The current frame length `n` (10_state R21): it exists from the acquisition's return until the response is taken. -/
def LoopPos.frameLen : LoopPos → Option Nat
  | .step2 (.ok n) => some n
  | .step3 n => some n
  | _ => none

/-- Where the loop is once a request of length `n` has been accepted. A request of the current frame's length is the loop's own
(41_environment R115), which it offers in step 3 (R104); any other is no request of the loop's, which keeps its place (log 21). -/
def LoopPos.onRequest (n : Nat) : LoopPos → LoopPos
  | .step2 (.ok m) => if m = n then .step3 m else .step2 (.ok m)
  | .step2 .failed => .step2 .failed
  | .step1 => .step1
  | .blocked => .blocked
  | .step3 m => .step3 m
  | .step4 r => .step4 r
  | .step5 => .step5
  | .stopped why => .stopped why

/-- Where the loop goes when the response to a request of length `n` is taken. In step 3 on that request, a record is rendered at
step 4, and `TruncatedFrame` skips to step 5, which is all of taking that condition and returning from it (R104, R105;
60_exceptions R128, R130). The response to any other request is no frame of the loop's, which keeps its place and renders nothing
(70 R153; log 21). -/
def LoopPos.afterResponse (n : Nat) (r : Response) (p : LoopPos) : LoopPos :=
  if p = .step3 n then
    match r with
    | .ok v => .step4 v
    | .truncated => .step5
  else p

/-- Any value of the `LEN_W` bits of the latch (10_state R26, 93 U9; log 3). -/
def State.freeLatch (s : State) : Nat := Config.freeLen s.draws % 2 ^ s.config.lenWidth

/-- The block goes back to `IDLE` and keeps nothing: no response, and a latch that holds any value
(40_decode R91, 10_state R26, 93 U9). -/
def State.endTransaction (s : State) : State :=
  { s with phase := .idle, rsp := none, reqLen := s.freeLatch, draws := s.draws + 1 }

/-- The block's response to a request for a window of length `n`: DECODE on the buffer as it stands (40_decode R90). -/
def State.respond (s : State) (n : Nat) : Access Response :=
  (decodeWindow (s.fbWindow n)).bind fun r => Access.pure (responseOf n r)

/-- The block evaluates its response and offers it (40_decode R90). -/
def State.offer (s : State) (n : Nat) : State :=
  { s with rsp := some (s.respond n).value, reads := (s.respond n).reads }

/-- The request is accepted, `req_len <- n` and `phase <- BUSY`, and the response offered (40_decode R89, R90); the loop is in
step 3 if the request is its own. -/
def State.accept (s : State) (n : Nat) : State :=
  State.offer { s with phase := .busy, reqLen := n, pos := s.pos.onRequest n } n

/-- The offered response is taken: it is handed over, the block is `IDLE` (40_decode R91), the loop goes on. -/
def State.take (s : State) (r : Response) : State :=
  { s.endTransaction with out := some (.response r), pos := s.pos.afterResponse s.reqLen r }

/-- Step 4: the record is rendered and the line handed to the Output Sink (41_environment R105, R113, R114). -/
def State.emitLine (s : State) (r : Record) : State :=
  { s with lines := s.lines ++ [renderLine r], out := some (.text (renderLine r)), pos := .step5 }

/-- The frame a report carries, `none` where it is `Err(AcquisitionFailed)`: a negative `bytesRead`, or a present `error`
whatever `bytesRead` is, is an error (41_environment R101, 90_conflicts C6). -/
def Report.frame : Report → Option (List Octet)
  | .returned os false => some os
  | .returned _ true => none
  | .negative _ => none
  | .sourceClosed => none

/-- The handle after a report. -/
def Report.handleAfter (h : Handle) : Report → Handle
  | .returned _ _ => h
  | .negative _ => h
  | .sourceClosed => .closed

/-- A failed `ACQUIRE` leaves every octet of the buffer unspecified (20_memory R45): a new family of free octets. -/
def State.acqFailed (s : State) : State :=
  { s with fb := [], fbEpoch := s.fbEpoch + 1, pos := .step2 .failed, out := some (.acquired .failed) }

/-- A successful `ACQUIRE` has written the frame at offsets 0 to `n-1` and nothing else (41_environment R100). -/
def State.acqOk (s : State) (os : List Octet) : State :=
  { s with
      fb := s.fb.writeFrom 0 os
      pos := .step2 (.ok os.length)
      out := some (.acquired (.ok os.length)) }

/-- An answer of the oracle: a frame has 0 to `CAPACITY` octets (41_environment R101). -/
def Answer.within (capacity : Nat) : Answer → Answer
  | some (.returned os e) => some (.returned (os.take capacity) e)
  | some (.negative k) => some (.negative k)
  | some .sourceClosed => some .sourceClosed
  | none => none

/-- The next answer: the first one placed, else the oracle's next (log 6). -/
def State.answer (s : State) : Answer :=
  match s.answers with
  | a :: _ => a
  | [] => Answer.within s.config.capacity (Config.sourceAnswer s.polls)

/-- The state with the next answer drawn. -/
def State.drawn (s : State) : State :=
  { s with answers := s.answers.tail, polls := if s.answers = [] then s.polls + 1 else s.polls }

/-- The call of the Frame Source: it blocks until a report is there (41_environment R100, 60_exceptions R136). -/
def State.callSource (s : State) : Out :=
  if s.handle = .closed then .next s.acqFailed
  else
    match s.answer with
    | none => .next { s.drawn with pos := .blocked }
    | some r =>
      match r.frame with
      | none => .next (State.acqFailed { s.drawn with handle := r.handleAfter s.handle })
      | some os =>
        if os.length ≤ s.config.capacity then .next (s.drawn.acqOk os) else .refused .frameBeyondCapacity

/-- Whether the loop is in the middle of an iteration, between `ACQUIRE`'s return and step 1. -/
def LoopPos.midIteration : LoopPos → Bool
  | .step2 _ => true
  | .step3 _ => true
  | .step4 _ => true
  | .step5 => true
  | .step1 => false
  | .blocked => false
  | .stopped _ => false

/-- Step 1 of the loop (41_environment R102): a loop that has stopped calls nothing (R103). A source that could not be
initialised precedes everything (60_exceptions R123, R127); a call while a `PARSE` is open is the race (70 R145); then come
the cancellation flag and the call. That the race comes before the flag, in a busy block whose flag is set, is the model's
choice: R116 tests the flag first, and no rule says what happens in `BUSY` (DESIGN CHOICE, log 13). A call that is already
blocked does not test the flag again (R108). In the middle of an iteration step 1 has not come yet. -/
def State.acquireStep (s : State) : Out :=
  match s.pos with
  | .stopped _ => .next s.fresh
  | p =>
    if s.handle = .unavailable then .next (s.fresh.stop .sourceUnavailable)
    else if s.phase = .busy then .fault .bufferRace
    else if p.midIteration then .next s
    else if p = .blocked then s.fresh.callSource
    else if s.cancelFlag then .next (s.fresh.stop .cancelled)
    else s.fresh.callSource

/-- A length from 0 to `CAPACITY` that the spec does not state: a free value (log 24). -/
def State.freeRecordLen (s : State) : Nat := Config.freeRecordLen s.draws % (s.config.capacity + 1)

/-- MAKE_RECORD outside its operand's range: the addresses and the type value are the header's, the length is a free value. -/
def State.giveFreeRecord (s : State) (h : Header) : State :=
  { s with out := some (.record (recordOf s.freeRecordLen h)), reads := [], draws := s.draws + 1 }

end Sys2Proof.Machine
end

