-- ==== Sys2Proof/Machine/Block.lean ====
section
/-! DEFINITION. Meanings of the block's pure operations: CHECK_LEN, GET_DST, GET_SRC, NTOH16, SWAP16, LE16, BE16,
GET_TYPE, DECODE (40_decode R80 to R88). Each hands its result over and writes no other state. -/

namespace Sys2Proof.Machine

/-- CHECK_LEN (40_decode R80); a length above `CAPACITY` is refused (95 V-C). -/
def execCheckLen (n : Nat) (s : State) : Out :=
  if n ≤ s.config.capacity then .next (s.give (.bool (lenOk n))) else .refused .lengthBeyondCapacity

/-- GET_DST on the window of the header vector (40_decode R81). -/
def execGetDst (h : Hdr) (s : State) : Out := .next (s.giveRead (dstOf (hdrWindow Config.hdrLen h)) .addr)

/-- GET_SRC on the window of the header vector (40_decode R82). -/
def execGetSrc (h : Hdr) (s : State) : Out := .next (s.giveRead (srcOf (hdrWindow Config.hdrLen h)) .addr)

/-- NTOH16 (40_decode R83). -/
def execNtoh16 (a b : Octet) (s : State) : Out := .next (s.give (.u16 (ntoh16 a b)))

/-- SWAP16 (40_decode R84). -/
def execSwap16 (x : U16) (s : State) : Out := .next (s.give (.u16 (swap16 x)))

/-- LE16 (40_decode R85). -/
def execLe16 (a b : Octet) (s : State) : Out := .next (s.give (.u16 (le16 a b)))

/-- BE16 (40_decode R85). -/
def execBe16 (a b : Octet) (s : State) : Out := .next (s.give (.u16 (be16 a b)))

/-- GET_TYPE on the window of the header vector (40_decode R86). -/
def execGetType (h : Hdr) (s : State) : Out := .next (s.giveRead (typeOf (hdrWindow Config.hdrLen h)) .u16)

/-- DECODE of a window of length `n` whose first octets are those of the header vector (40_decode R87). -/
def execDecode (n : Nat) (h : Hdr) (s : State) : Out :=
  if n ≤ s.config.capacity then .next (s.giveRead (decodeWindow (hdrWindow n h)) .header)
  else .refused .lengthBeyondCapacity

end Sys2Proof.Machine
end

