-- ==== Sys2Proof/Machine/Environment.lean ====
section
/-! DEFINITION. Meanings of the environment's operations: ACQUIRE, LOOP_ITER, CANCEL (41_environment). -/

namespace Sys2Proof.Machine

/-- ACQUIRE as the loop's step 1 performs it (41_environment R100, R102). -/
def execAcquire (s : State) : Out := s.acquireStep

/-- `rsp = PARSE(n)` as one transaction (40_decode R90): the block must be `IDLE` and `n` legal. -/
def State.parseWhole (s : State) (n : Nat) : Out :=
  if n ≤ s.config.capacity then .next ((s.accept n).take (s.respond n).value) else .refused .lengthBeyondCapacity

/-- The rest of an iteration after `ACQUIRE` returned `a` (41_environment R116): step 2, then step 3, then step 4 or not,
then step 5. -/
def State.finishIteration (s : State) (a : AcqResult) : Out :=
  match a with
  | .failed => .next (s.stop .acquisitionFailed)
  | .ok n =>
    match s.parseWhole n with
    | .next t =>
      match t.pos with
      | .step4 r => .next { t.emitLine r with pos := .step1 }
      | _ => .next { t with pos := .step1 }
    | .fault f => .fault f
    | .refused r => .refused r

/-- LOOP_ITER: one iteration (41_environment R116). Where the call blocks, the iteration waits in it; where the loop has
stopped there is no iteration; in the middle of an iteration the next one has not come yet. -/
def execLoopIter (s : State) : Out :=
  if s.handle ≠ .unavailable ∧ s.phase = .idle ∧ s.pos.midIteration then .next s
  else
    match s.acquireStep with
    | .next t =>
      match t.pos with
      | .step2 a => t.finishIteration a
      | _ => .next t
    | .fault f => .fault f
    | .refused r => .refused r

/-- CANCEL: `cancel_flag <- true` (41_environment R108). -/
def execCancel (s : State) : Out := .next { s.fresh with cancelFlag := true }

end Sys2Proof.Machine
end

