-- ==== Sys2Proof/Machine/Text.lean ====
section
/-! DEFINITION. Meanings of MAKE_RECORD, HEX2, HEX4, ADDR, DEC, RENDER_LINE (41_environment R109 to R113). Each hands its
result over and writes no other state. -/

namespace Sys2Proof.Machine

/-- MAKE_RECORD (41_environment R109), whose operand is `14 <= n <= CAPACITY`. Outside that range the spec states no record, and
the length is a free value (DESIGN CHOICE, log 24). -/
def execMakeRecord (n : Nat) (h : Header) (s : State) : Out :=
  if Config.hdrLen ≤ n ∧ n ≤ s.config.capacity then .next (s.give (.record (recordOf n h)))
  else .next (s.giveFreeRecord h)

/-- HEX2 (41_environment R110). -/
def execHex2 (o : Octet) (s : State) : Out := .next (s.give (.text (hex2 o)))

/-- HEX4 (41_environment R110). -/
def execHex4 (v : U16) (s : State) : Out := .next (s.give (.text (hex4 v)))

/-- ADDR (41_environment R111). -/
def execAddr (a : Addr) (s : State) : Out := .next (s.give (.text (renderAddr a)))

/-- DEC (41_environment R112). -/
def execDec (n : Nat) (s : State) : Out := .next (s.give (.text (renderDec n)))

/-- RENDER_LINE, total on records (41_environment R113; log 16). -/
def execRenderLine (r : Record) (s : State) : Out := .next (s.give (.text (renderLine r)))

end Sys2Proof.Machine
end

