-- ==== Sys2Proof/Machine/Transaction.lean ====
section
/-! DEFINITION. Meanings of the block's transaction: PARSE, PARSE.RSP_OK, PARSE.RSP_TRUNC, RESET (40_decode R89 to R91,
70_reset_and_hazards R140 to R142). -/

namespace Sys2Proof.Machine

/-- The Capture Loop takes the response `r` if that is the one offered; otherwise there is no such response to take and
nothing is handed over (40_decode R91, 70 R152). -/
def State.takeIfOffered (s : State) (r : Response) : State :=
  if s.phase = .busy ∧ s.rsp = some r then s.fresh.take r else s.fresh

/-- PARSE: accepted when `IDLE`, and the response offered; when `BUSY` the request is not accepted and stays offered, so
nothing changes (40_decode R89, R90). Where the Frame Source could not be initialised the block never sees a request
(60_exceptions R123, 70_reset_and_hazards R144). -/
def execParse (n : Nat) (s : State) : Out :=
  if n ≤ s.config.capacity then
    if s.handle = .unavailable then .next s.fresh
    else
      match s.phase with
      | .idle => .next (s.fresh.accept n)
      | .busy => .next s
  else .refused .lengthBeyondCapacity

/-- PARSE.RSP_OK: the response with this record is taken (30_encoding R70, 40_decode R91). -/
def execRspOk (r : Record) (s : State) : Out := .next (s.takeIfOffered (.ok r))

/-- PARSE.RSP_TRUNC: the response `TruncatedFrame` is taken (30_encoding R70, 40_decode R91). -/
def execRspTrunc (s : State) : Out := .next (s.takeIfOffered .truncated)

/-- RESET: `phase <- IDLE` and any open transaction is abandoned; the FrameBuffer and the environment are untouched
(70_reset_and_hazards R140 to R142; the environment's state, log 10). -/
def execReset (s : State) : Out := .next s.fresh.endTransaction

end Sys2Proof.Machine
end

