-- ==== Sys2Proof/Machine/Dispatch.lean ====
section
/-! DEFINITION. One arm per operation. -/

namespace Sys2Proof.Machine

def exec (i : Instr) (s : State) : Host.Outcome State Fault Refusal :=
  match i with
  | .checkLen n => Sys2Proof.Machine.execCheckLen n s
  | .getDst h => Sys2Proof.Machine.execGetDst h s
  | .getSrc h => Sys2Proof.Machine.execGetSrc h s
  | .ntoh16 a b => Sys2Proof.Machine.execNtoh16 a b s
  | .swap16 x => Sys2Proof.Machine.execSwap16 x s
  | .le16 a b => Sys2Proof.Machine.execLe16 a b s
  | .be16 a b => Sys2Proof.Machine.execBe16 a b s
  | .getType h => Sys2Proof.Machine.execGetType h s
  | .decode n h => Sys2Proof.Machine.execDecode n h s
  | .parse n => Sys2Proof.Machine.execParse n s
  | .rspOk r => Sys2Proof.Machine.execRspOk r s
  | .rspTrunc => Sys2Proof.Machine.execRspTrunc s
  | .reset => Sys2Proof.Machine.execReset s
  | .acquire => Sys2Proof.Machine.execAcquire s
  | .loopIter => Sys2Proof.Machine.execLoopIter s
  | .cancel => Sys2Proof.Machine.execCancel s
  | .makeRecord n h => Sys2Proof.Machine.execMakeRecord n h s
  | .hex2 o => Sys2Proof.Machine.execHex2 o s
  | .hex4 v => Sys2Proof.Machine.execHex4 v s
  | .addr a => Sys2Proof.Machine.execAddr a s
  | .dec n => Sys2Proof.Machine.execDec n s
  | .renderLine r => Sys2Proof.Machine.execRenderLine r s

end Sys2Proof.Machine
end

