-- ==== Sys2Proof/Machine/Loop.lean ====
section
/-! DEFINITION. How the system goes on by itself (41_environment R102 to R107, R115), which placed operations wait, and
what the next placed operation is. -/

namespace Sys2Proof.Machine

/-- One step of the system by itself. Where the Frame Source could not be initialised the loop does not start (60_exceptions
R123, R127). Else an open transaction comes first: the block offers its response if it has not yet
(70 R152), and the Capture Loop takes an offered one (40_decode R91). Otherwise the loop performs its protocol step, step 3
being a whole PARSE (41_environment R115, 92 D1). A stopped loop and an idle block have no step to take (60 R136). -/
def State.advance (s : State) : Out :=
  if s.handle = .unavailable ∧ s.pos.running then .next (s.fresh.stop .sourceUnavailable)
  else
    match s.phase with
    | .busy =>
      match s.rsp with
      | some r => .next (s.fresh.take r)
      | none => .next (s.fresh.offer s.reqLen)
    | .idle =>
      match s.pos with
      | .step1 => s.acquireStep
      | .blocked => s.acquireStep
      | .step2 .failed => .next (s.fresh.stop .acquisitionFailed)
      | .step2 (.ok n) => .next { s.fresh with pos := .step3 n }
      | .step3 n => s.fresh.parseWhole n
      | .step4 r => .next (s.fresh.emitLine r)
      | .step5 => .next { s.fresh with pos := .step1 }
      | .stopped _ => .next s.fresh

/-- Whether the loop still has moves of the iteration before to make that no open transaction is part of: to stop at step 2,
or to do steps 4 and 5. -/
def LoopPos.closing : LoopPos → Bool
  | .step2 .failed => true
  | .step2 (.ok _) => false
  | .step3 _ => false
  | .step4 _ => true
  | .step5 => true
  | .step1 => false
  | .blocked => false
  | .stopped _ => false

/-- A placed operation that cannot happen yet stays placed. A request is held while the block is `BUSY` (40_decode R89) and
while the loop has moves of the iteration before to make; `ACQUIRE` and `LOOP_ITER` start at step 1 (41_environment R102), so
they wait for the iteration before to end, unless a `PARSE` is open, which is the race (70 R145). -/
def State.holds (s : State) (i : Instr) : Bool :=
  match i with
  | .parse _ => decide (s.phase = .busy) || s.pos.closing
  | .acquire => decide (s.phase = .idle) && s.pos.midIteration
  | .loopIter => decide (s.phase = .idle) && s.pos.midIteration
  | .checkLen _ => false
  | .getDst _ => false
  | .getSrc _ => false
  | .ntoh16 _ _ => false
  | .swap16 _ => false
  | .le16 _ _ => false
  | .be16 _ _ => false
  | .getType _ => false
  | .decode _ _ => false
  | .rspOk _ => false
  | .rspTrunc => false
  | .reset => false
  | .cancel => false
  | .makeRecord _ _ => false
  | .hex2 _ => false
  | .hex4 _ => false
  | .addr _ => false
  | .dec _ => false
  | .renderLine _ => false

/-- The next placed operation and the script after it; `none` when nothing is placed. -/
def State.fetch (s : State) : Option (Reading Instr) :=
  match s.script with
  | [] => none
  | b :: bs => some (decode s.config (b :: bs))

/-- The frame of an `ACQ` line: its count of octets in the octets of a length, then those octets. -/
def readFrame (c : Config) (bs : List Octet) : Reading Answer :=
  match readLen c bs with
  | .error e => .error e
  | .ok (n, rest) =>
    if rest.length < n then .error .scriptEnds else .ok (some (.returned (rest.take n) false), rest.drop n)

/-- An answer of the Frame Source as the script places it (30_encoding R76; log 7): selector 22 is `ACQ n : octets`, 23 is
`ACQ ERR`, 24 is the source being closed (41_environment R108), and 25 is nothing yet. -/
def readAnswer (c : Config) : List Octet → Reading Answer
  | [] => .error .scriptEnds
  | sel :: bs =>
    match sel.toNat with
    | 22 => readFrame c bs
    | 23 => .ok (some (.negative 0), bs)
    | 24 => .ok (some .sourceClosed, bs)
    | 25 => .ok (none, bs)
    | _ => .error (.unknownSelector sel)

/-- The step when the script does not start with an operation of the table but may start with an answer of the Frame Source,
which is then placed behind those that are (log 7). -/
def State.placeAnswer (s : State) : Out :=
  match readAnswer s.config s.script with
  | .ok (a, rest) => .next { s.fresh with answers := s.answers ++ [a], script := rest }
  | .error .scriptEnds => s.advance
  | .error _ => .next { s.fresh with script := skipRow s.config s.script }

/-- The step when the script does not start with an operation (log 7). While the octets of an operation are not all there,
nothing has been placed yet; octets that name neither an operation nor an answer place nothing and are gone. A response that
the block never produces (30_encoding R70) and a length above `CAPACITY` (R68) are refused. -/
def State.notAnOperation (s : State) (e : DecodeError) : Out :=
  match e with
  | .scriptEnds => s.advance
  | .unknownSelector _ => s.placeAnswer
  | .reservedBits => .next { s.fresh with script := skipRow s.config s.script }
  | .statusNeverProduced => .refused .statusNeverProduced
  | .illFormed _ => .refused .lengthBeyondCapacity

/-- Place one operation, given as the table's bits, in front of the script. -/
def State.place (s : State) (nbits w : Nat) : State := { s with script := tableOctets nbits w ++ s.script }

end Sys2Proof.Machine
end

