-- ==== Sys2Proof/Machine/Step.lean ====
section
/-! DEFINITION. One step of the machine: the next placed operation if there is one that can happen now, else the system's
own next step (log 8). -/

namespace Sys2Proof.Machine

/-- One step. -/
def step (s : State) : Host.Outcome State Fault Refusal :=
  match s.fetch with
  | none => s.advance
  | some (.error e) => s.notAnOperation e
  | some (.ok (i, rest)) => if s.holds i then s.advance else exec i { s with script := rest }

/-- `s` with the table word placed where `step` takes its next operation. -/
def State.withFetchWord (s : State) (nbits w : Nat) : State := s.place nbits w

end Sys2Proof.Machine
end

