-- ==== Sys2Proof/Machine/Ports.lean ====
section
/-! DEFINITION. The reference ports as views of the state (30_encoding R69 to R72). The model does not depend on them. -/

namespace Sys2Proof

/-- The free bits of the response port where the spec gives no value (30_encoding R70, 93 U3 and U9). They depend on the whole
state, so that nothing says whether they change from one state to another (log 5). -/
opaque Config.freeRsp (s : Machine.State) : BitVec (2 + s.config.lenWidth + 48 + 48 + 16)

end Sys2Proof

namespace Sys2Proof.Machine

/-- `req_ready`: 1 exactly when `phase = IDLE` (30_encoding R72). -/
def State.reqReady (s : State) : Bool := decide (s.phase = .idle)

/-- `rsp_valid`: a response is offered (30_encoding R72). -/
def State.rspValid (s : State) : Bool := s.rsp.isSome

/-- `buf_addr`, in `BUF_ADDR_W` bits, for each octet that the last step read (30_encoding R72). -/
def State.bufAddrs (s : State) : List (BitVec s.config.addrWidth) := s.reads.map (BitVec.ofNat _)

/-- An address in 48 bits, octet 0 in bits 47:40 (30_encoding R71). -/
def packAddr (a : Addr) : BitVec 48 := a.o0 ++ a.o1 ++ a.o2 ++ a.o3 ++ a.o4 ++ a.o5

/-- The response vector `{rsp_status, rsp_len, rsp_dst, rsp_src, rsp_proto}` with a length of `w` bits (30_encoding R75: 131
bits with `LEN_W` = 17); where the spec gives the bits no value they are those of `free` (R70, 93 U3). -/
def responseWord {w : Nat} (free : BitVec (2 + w + 48 + 48 + 16)) (r : Response) : BitVec (2 + w + 48 + 48 + 16) :=
  match r with
  | .ok v => rspStatus r ++ BitVec.ofNat w v.len ++ packAddr v.dst ++ packAddr v.src ++ v.proto
  | .truncated =>
    rspStatus r ++ free.extractLsb' 112 w ++ free.extractLsb' 64 48 ++ free.extractLsb' 16 48 ++ free.extractLsb' 0 16

/-- What the response port shows: the offered response, or any value (93 U9). -/
def State.rspPort (s : State) : BitVec (2 + s.config.lenWidth + 48 + 48 + 16) :=
  match s.rsp with
  | some r => responseWord (Config.freeRsp s) r
  | none => Config.freeRsp s

end Sys2Proof.Machine
end

