-- ==== Sys2Proof/Safety.lean ====
section
/-! DEFINITION. What statements speak of: the invariant of the machine, agreement on the header octets, and the record a
frame carries. -/

namespace Sys2Proof.Machine

/-- The lengths the Capture Loop holds are those the spec allows at its position: a frame length at most `CAPACITY`
(10_state R21), a record only of a frame of 14 octets or more (41_environment R105). -/
def LoopPos.Ok (c : Config) : LoopPos → Prop
  | .step2 (.ok n) => n ≤ c.capacity
  | .step3 n => n ≤ c.capacity
  | .step4 r => Config.hdrLen ≤ r.len ∧ r.len ≤ c.capacity
  | _ => True

/-- The loop is not at its steps 4 or 5. -/
def LoopPos.beforeStep4 : LoopPos → Bool
  | .step4 _ => false
  | .step5 => false
  | _ => true

/-- A line the Output Sink may hold: that of a record of a frame of 14 octets or more (41_environment R105, R113). -/
def IsRecordLine (c : Config) (l : List Char) : Prop :=
  ∃ r : Record, Config.hdrLen ≤ r.len ∧ r.len ≤ c.capacity ∧ l = renderLine r

/-- The record that the octets of a window `W` of length `n` carry (40_decode R90): addresses in offset order, the type
field with octet 12 the more significant. -/
def recordFrom (W : Nat → Octet) (n : Nat) : Record :=
  { len := n
    dst := ⟨W 0, W 1, W 2, W 3, W 4, W 5⟩
    src := ⟨W 6, W 7, W 8, W 9, W 10, W 11⟩
    proto := W 12 ++ W 13 }

/-- The invariant: the FrameBuffer is in its canonical form; an idle block has no response; the latch holds `LEN_W` bits; a
busy block holds a legal length and exactly DECODE's response to the buffer as it stands, and the loop is not past step 3, and
not before it if the request is its own; the loop's values are legal; the current frame's octets have all been written; the
record the loop holds is that of the buffer as it stands; every line is a record's; where the Frame Source could not be
initialised nothing has happened. -/
structure State.Inv (s : State) : Prop where
  memory    : s.fb.wf s.config
  idle      : s.phase = .idle → s.rsp = none
  latch     : s.reqLen < 2 ^ s.config.lenWidth
  busy      : s.phase = .busy →
                s.reqLen ≤ s.config.capacity ∧ s.rsp = some (s.respond s.reqLen).value ∧ s.pos.beforeStep4 = true ∧
                s.pos ≠ .step2 (.ok s.reqLen)
  loop      : s.pos.Ok s.config
  frame     : ∀ n, s.pos.frameLen = some n → ∀ a, a < n → s.fb.read? a ≠ none
  record    : ∀ r, s.pos = .step4 r → r = recordFrom s.fbOctet r.len
  sink      : ∀ l ∈ s.lines, IsRecordLine s.config l
  unstarted : s.handle = .unavailable →
                s.phase = .idle ∧ (s.pos = .step1 ∨ s.pos = .stopped .sourceUnavailable) ∧ s.lines = []

/-- Two states show the block the same header octets `FB[0..13]` (20_memory R42). -/
def SameHeaderOctets (s t : State) : Prop := ∀ a, a < 14 → s.fbOctet a = t.fbOctet a

/-- The octet of a frame at an offset, in received order (20_memory R40). -/
def frameOctet (os : List Octet) (i : Nat) : Octet := os.getD i 0

/-- The loop is at step 1 with no transaction open and the source initialised, and the call of `ACQUIRE` goes ahead: it
is already blocked, or the cancellation flag is not set (41_environment R102, R108; 60_exceptions R127). -/
def State.MayAcquire (s : State) : Prop :=
  s.phase = .idle ∧ s.handle = .opened ∧ (s.pos = .blocked ∨ (s.pos = .step1 ∧ s.cancelFlag = false))

end Sys2Proof.Machine
end

