-- ==== Sys2Proof/Certificates/Slice0/Obligations.lean ====
section
/-! DEFINITION. The statements for the provers. An equation `exec i s = .next t` with `t` written as `s` with some fields
changed says both that the operation completes and that every other field of the state is unchanged. -/

open Sys2Proof Sys2Proof.Machine

/-! ## The block's pure operations -/

/-- R80: CHECK_LEN hands over whether `L >= 14`, for every legal length, and changes nothing else. -/
def Obligations.CheckLenComparesWith14 : Prop :=
  ∀ (n : Nat) (s : State), n ≤ s.config.capacity →
    exec (.checkLen n) s = .next { s with out := some (.bool (decide (14 ≤ n))), reads := [] }

/-- R81 with R61: GET_DST hands over bits 111:64 of the header vector as six octets, order kept, reading offsets 0 to 5 (in
this order, once each: the model's choice, log 23). -/
def Obligations.GetDstTakesOctets0To5 : Prop :=
  ∀ (h : Hdr) (s : State),
    exec (.getDst h) s = .next { s with
      out := some (.addr ⟨h.extractLsb' 104 8, h.extractLsb' 96 8, h.extractLsb' 88 8, h.extractLsb' 80 8,
        h.extractLsb' 72 8, h.extractLsb' 64 8⟩)
      reads := [0, 1, 2, 3, 4, 5] }

/-- R82 with R61: GET_SRC hands over bits 63:16 of the header vector as six octets, order kept, reading offsets 6 to 11 (in
this order, once each: the model's choice, log 23). -/
def Obligations.GetSrcTakesOctets6To11 : Prop :=
  ∀ (h : Hdr) (s : State),
    exec (.getSrc h) s = .next { s with
      out := some (.addr ⟨h.extractLsb' 56 8, h.extractLsb' 48 8, h.extractLsb' 40 8, h.extractLsb' 32 8,
        h.extractLsb' 24 8, h.extractLsb' 16 8⟩)
      reads := [6, 7, 8, 9, 10, 11] }

/-- R86 with R64: GET_TYPE hands over bits 15:0 of the header vector, reading offsets 12 and 13 only
(in this order, once each: the model's choice, log 23). -/
def Obligations.GetTypeTakesLow16Bits : Prop :=
  ∀ (h : Hdr) (s : State),
    exec (.getType h) s = .next { s with out := some (.u16 (h.extractLsb' 0 16)), reads := [12, 13] }

/-- R83: NTOH16 hands over the number `256*a + b`, `a` more significant, for all 65536 pairs, and changes nothing else. -/
def Obligations.Ntoh16IsBigEndian : Prop :=
  ∀ (a b : Octet) (s : State), ∃ v : U16,
    exec (.ntoh16 a b) s = .next { s with out := some (.u16 v), reads := [] } ∧
    v.toNat = 256 * a.toNat + b.toNat ∧ v.extractLsb' 8 8 = a ∧ v.extractLsb' 0 8 = b

/-- R93 (E1): the round trip in both directions: every 16-bit value comes back from its big-endian octets, and different
octet pairs give different results. -/
def Obligations.Ntoh16RoundTrip : Prop :=
  (∀ (v : U16) (s : State),
    exec (.ntoh16 (v.extractLsb' 8 8) (v.extractLsb' 0 8)) s = .next { s with out := some (.u16 v), reads := [] }) ∧
  (∀ (a b a' b' : Octet) (s : State), exec (.ntoh16 a b) s = exec (.ntoh16 a' b') s → a = a' ∧ b = b')

/-- R84: SWAP16 hands over `{x[7:0], x[15:8]}`, is its own inverse, and leaves exactly the words with equal octets fixed. -/
def Obligations.Swap16ExchangesOctets : Prop :=
  ∀ (x : U16) (s : State), ∃ y : U16,
    exec (.swap16 x) s = .next { s with out := some (.u16 y), reads := [] } ∧
    y.extractLsb' 8 8 = x.extractLsb' 0 8 ∧ y.extractLsb' 0 8 = x.extractLsb' 8 8 ∧
    exec (.swap16 y) s = .next { s with out := some (.u16 x), reads := [] } ∧
    (y = x ↔ x.extractLsb' 8 8 = x.extractLsb' 0 8)

/-- R85: LE16 hands over `256*b + a`, BE16 `256*a + b`, and NTOH16 of two octets is SWAP16 of their LE16 and is their BE16. -/
def Obligations.Ntoh16IsSwappedLittleEndianLoad : Prop :=
  ∀ (a b : Octet) (s : State), ∃ le be : U16,
    exec (.le16 a b) s = .next { s with out := some (.u16 le), reads := [] } ∧ le.toNat = 256 * b.toNat + a.toNat ∧
    exec (.be16 a b) s = .next { s with out := some (.u16 be), reads := [] } ∧ be.toNat = 256 * a.toNat + b.toNat ∧
    exec (.ntoh16 a b) s = exec (.swap16 le) s ∧ exec (.ntoh16 a b) s = exec (.be16 a b) s

/-- R87, R88: DECODE of a window of a legal length. From 14 octets on it hands over the header of octets 0 to 13, whatever
the length, and reads exactly those (in rising order, once each: the model's choice, log 23); on fewer it hands over
`TruncatedFrame`, whatever the octets, and reads none. -/
def Obligations.DecodeGivesHeaderOrTruncated : Prop :=
  ∀ (n : Nat) (h : Hdr) (s : State), n ≤ s.config.capacity →
    exec (.decode n h) s = .next (if 14 ≤ n then
      { s with
        out := some (.header (.ok
          { dst := ⟨h.extractLsb' 104 8, h.extractLsb' 96 8, h.extractLsb' 88 8, h.extractLsb' 80 8,
              h.extractLsb' 72 8, h.extractLsb' 64 8⟩
            src := ⟨h.extractLsb' 56 8, h.extractLsb' 48 8, h.extractLsb' 40 8, h.extractLsb' 32 8,
              h.extractLsb' 24 8, h.extractLsb' 16 8⟩
            proto := h.extractLsb' 0 16 }))
        reads := [0, 1, 2, 3, 4, 5, 6, 7, 8, 9, 10, 11, 12, 13] }
      else { s with out := some (.header .truncated), reads := [] })

/-- R93, R65: from 14 octets on DECODE is a bijection: every `Header` is the result for exactly one header vector, and every
header vector decodes. -/
def Obligations.DecodeIsABijection : Prop :=
  ∀ (n : Nat) (s : State), 14 ≤ n → n ≤ s.config.capacity →
    (∀ hd : Header, ∃! h : Hdr, ∃ t, exec (.decode n h) s = .next t ∧ t.out = some (.header (.ok hd))) ∧
    (∀ h : Hdr, ∃ t hd, exec (.decode n h) s = .next t ∧ t.out = some (.header (.ok hd)))

/-- 40_decode R80, R87, 30_encoding R68, 95 V-C: CHECK_LEN and DECODE refuse a length above `CAPACITY` (V-C's row 65537 says it of
CHECK_LEN; that DECODE does too is the model's reading, log 16). -/
def Obligations.LengthsOutOfRangeAreRefused : Prop :=
  ∀ (n : Nat) (h : Hdr) (s : State), s.config.capacity < n →
    exec (.checkLen n) s = .refused .lengthBeyondCapacity ∧ exec (.decode n h) s = .refused .lengthBeyondCapacity

/-! ## The transaction -/

/-- R89, R90, R28: where the source was initialised, an idle block accepts a legal request: `req_len <- n`, `phase <- BUSY`, and
offers DECODE's response to the buffer as it stands, the record carrying `n`, or `TruncatedFrame` exactly when `n < 14`. A loop at
step 2 with a frame of that length is then in step 3; nothing else changes. That the response is offered at once is the model's
(log 11), and so are which requests are the loop's own (log 21) and the order of the reads (log 23). -/
def Obligations.ParseAcceptsAndOffers : Prop :=
  ∀ (n : Nat) (s : State), s.phase = .idle → s.handle ≠ .unavailable → n ≤ s.config.capacity →
    exec (.parse n) s = .next { s with
      phase := .busy
      reqLen := n
      rsp := some (if 14 ≤ n then .ok
          { len := n
            dst := ⟨s.fbOctet 0, s.fbOctet 1, s.fbOctet 2, s.fbOctet 3, s.fbOctet 4, s.fbOctet 5⟩
            src := ⟨s.fbOctet 6, s.fbOctet 7, s.fbOctet 8, s.fbOctet 9, s.fbOctet 10, s.fbOctet 11⟩
            proto := s.fbOctet 12 ++ s.fbOctet 13 }
        else .truncated)
      pos := if s.pos = .step2 (.ok n) then .step3 n else s.pos
      out := none
      reads := if 14 ≤ n then [0, 1, 2, 3, 4, 5, 6, 7, 8, 9, 10, 11, 12, 13] else [] }

/-- R42, R43, R88: the offsets that an accepted PARSE and a DECODE read are exactly 0 to 13 when the length is 14 or more and
none otherwise; never one at or past the length, never one at or past 14. -/
def Obligations.OnlyHeaderOctetsAreRead : Prop :=
  ∀ (n : Nat) (h : Hdr) (s t : State),
    (s.phase = .idle ∧ s.handle ≠ .unavailable ∧ exec (.parse n) s = .next t) ∨ exec (.decode n h) s = .next t →
    (∀ a, a ∈ t.reads ↔ 14 ≤ n ∧ a < 14) ∧ (∀ a ∈ t.reads, a < n ∧ a < 14)

/-- R24, R33, R147: the response to a request is a function of `n` and `FB[0..13]`, and for `n < 14` of `n` alone: two idle
states that may differ in everything else, history and stale octets included, offer the same response and read the same. -/
def Obligations.ResponseDependsOnHeaderOctetsOnly : Prop :=
  ∀ (n : Nat) (s t u v : State), s.phase = .idle → t.phase = .idle → s.handle ≠ .unavailable → t.handle ≠ .unavailable →
    (14 ≤ n → SameHeaderOctets s t) →
    exec (.parse n) s = .next u → exec (.parse n) t = .next v → u.rsp = v.rsp ∧ u.reads = v.reads

/-- R89: a request offered in `BUSY` is not accepted and stays offered: PARSE changes nothing, and as a placed operation it
stays placed while the step takes the open response; then the block is idle (how a placed request is held: log 8), and the
loop has gone on, from step 3 on that response to step 4 or 5 and else nowhere (log 21). -/
def Obligations.RequestIsHeldWhileBusy : Prop :=
  ∀ (n : Nat) (r : Response) (rest : List Octet) (s : State), s.phase = .busy → s.handle ≠ .unavailable →
    n ≤ s.config.capacity →
    exec (.parse n) s = .next s ∧
    (s.script = encode s.config (.parse n) ++ rest → s.rsp = some r →
      ∃ t, step s = .next t ∧ t.phase = .idle ∧ t.out = some (.response r) ∧ t.script = s.script ∧
        (s.pos = .step3 s.reqLen → (∀ v, r = .ok v → t.pos = .step4 v) ∧ (r = .truncated → t.pos = .step5)) ∧
        (s.pos ≠ .step3 s.reqLen → t.pos = s.pos))

/-- R68: a PARSE above `CAPACITY` is refused, in either phase, and so is an acquisition that draws a longer frame, which only a
placed answer can be (the model's reading of the protocol violation, log 16). -/
def Obligations.BeyondCapacityIsRefused : Prop :=
  (∀ (n : Nat) (s : State), s.config.capacity < n → exec (.parse n) s = .refused .lengthBeyondCapacity) ∧
  (∀ (os : List Octet) (s : State), s.MayAcquire → s.answer = some (.returned os false) → s.config.capacity < os.length →
    exec .acquire s = .refused .frameBeyondCapacity ∧ exec .loopIter s = .refused .frameBeyondCapacity)

/-- R91, R90, R105: taking the offered record hands it over once and makes the block idle; the loop goes on to step 4 with it
if it is in step 3 on that request, else it keeps its place (log 21); the buffer and the rest of the environment are
unchanged. The latch then holds some value of its `LEN_W` bits, no rule says which. -/
def Obligations.RspOkIsTaken : Prop :=
  ∀ (r : Record) (s : State), s.phase = .busy → s.rsp = some (.ok r) →
    ∃ l : Nat, l < 2 ^ s.config.lenWidth ∧ exec (.rspOk r) s = .next { s with
      phase := .idle
      rsp := none
      reqLen := l
      draws := s.draws + 1
      pos := if s.pos = .step3 s.reqLen then .step4 r else s.pos
      out := some (.response (.ok r))
      reads := [] }

/-- R91, R128, R130: taking `TruncatedFrame` hands it over with no fields and makes the block idle; the loop skips to step 5 if
it is in step 3 on that request, else it keeps its place (log 21); the buffer, the lines and the rest are unchanged. -/
def Obligations.RspTruncIsTaken : Prop :=
  ∀ (s : State), s.phase = .busy → s.rsp = some .truncated →
    ∃ l : Nat, l < 2 ^ s.config.lenWidth ∧ exec .rspTrunc s = .next { s with
      phase := .idle
      rsp := none
      reqLen := l
      draws := s.draws + 1
      pos := if s.pos = .step3 s.reqLen then .step5 else s.pos
      out := some (.response .truncated)
      reads := [] }

/-- R152, R91: the block never answers without a request: where the response is not the one offered, or none is, nothing is
handed over and nothing changes (what such an operation does: log 12). -/
def Obligations.NoResponseWithoutRequest : Prop :=
  ∀ (s : State),
    (∀ r : Record, ¬ (s.phase = .busy ∧ s.rsp = some (.ok r)) → exec (.rspOk r) s = .next { s with out := none, reads := [] }) ∧
    (¬ (s.phase = .busy ∧ s.rsp = some .truncated) → exec .rspTrunc s = .next { s with out := none, reads := [] })

/-- R90: a whole transaction from an idle block: the request, then the one response that is offered; after it the block is
idle, offers nothing, and the buffer is as it was. That the response can be taken right after the request is log 11; that a
response row then finds none, goes on and changes nothing is log 12. -/
def Obligations.TransactionAnswersOnceAndReturnsToIdle : Prop :=
  ∀ (n : Nat) (s : State), s.phase = .idle → s.handle ≠ .unavailable → n ≤ s.config.capacity →
    ∃ t u, exec (.parse n) s = .next t ∧ u.phase = .idle ∧ u.rsp = none ∧ u.fb = s.fb ∧ u.fbEpoch = s.fbEpoch ∧
      u.lines = s.lines ∧
      ((n < 14 ∧ exec .rspTrunc t = .next u ∧ u.out = some (.response .truncated)) ∨
       (14 ≤ n ∧ exec (.rspOk (recordFrom s.fbOctet n)) t = .next u ∧
        u.out = some (.response (.ok (recordFrom s.fbOctet n))))) ∧
      (∀ r, exec (.rspOk r) u = .next { u with out := none, reads := [] }) ∧
      exec .rspTrunc u = .next { u with out := none, reads := [] }

/-- R140, R141: RESET sets `phase <- IDLE` and discards an open transaction; the FrameBuffer and the environment's state are
unchanged (the environment's state: the model's reading, log 10); the latch holds some value of its `LEN_W` bits, no rule says
which. That a response row after it finds no response, goes on and changes nothing is log 12. -/
def Obligations.ResetAbandonsTransaction : Prop :=
  ∀ (s : State), ∃ (l : Nat) (t : State), l < 2 ^ s.config.lenWidth ∧
    t = { s with phase := .idle, rsp := none, reqLen := l, draws := s.draws + 1, out := none, reads := [] } ∧
    exec .reset s = .next t ∧
    (∀ r, exec (.rspOk r) t = .next t) ∧ exec .rspTrunc t = .next t

/-- R141, R142, with R90 and 92 D1: the first PARSE after a RESET is answered as it would be by an idle block on the same buffer,
whatever was open before (its response offered in the same operation: log 11). -/
def Obligations.ParseAfterResetIsLikeAnyOther : Prop :=
  ∀ (n : Nat) (s t : State), s.handle ≠ .unavailable → n ≤ s.config.capacity → exec .reset s = .next t →
    ∃ u, exec (.parse n) t = .next u ∧ u.phase = .busy ∧ u.fb = s.fb ∧ u.fbEpoch = s.fbEpoch ∧
      u.rsp = some (if 14 ≤ n then .ok (recordFrom s.fbOctet n) else .truncated)

/-- R36, R7, R8: the state after reset, as far as the spec gives it, in the default configuration. -/
def Obligations.ResetState : Prop :=
  State.reset.config.capacity = 65536 ∧ State.reset.config.lenWidth = 17 ∧ State.reset.config.addrWidth = 16 ∧
  State.reset.phase = .idle ∧ State.reset.rsp = none ∧ State.reset.pos = .step1 ∧ State.reset.pos.frameLen = none ∧
  State.reset.cancelFlag = false ∧ (∀ a, State.reset.fb.read? a = none)

/-! ## The environment -/

/-- R100, R45, R46: a successful acquisition of `n` octets writes exactly `FB[0..n-1]`, in received order, draws one answer, and
returns `Ok(n)`; nothing else changes. `n = 0` and `n = CAPACITY` are legal. That the octets from `n` on are as they were is the
model's choice (log 15): R46 also lets a model take any value there. -/
def Obligations.AcquireWritesTheFrame : Prop :=
  ∀ (os : List Octet) (s : State), s.MayAcquire → s.answer = some (.returned os false) → os.length ≤ s.config.capacity →
    ∃ (m : Memory) (t : State),
      t = { s.drawn with
        fb := m, pos := .step2 (.ok os.length), out := some (.acquired (.ok os.length)), reads := [] } ∧
      exec .acquire s = .next t ∧
      (∀ a, t.fbOctet a = if a < os.length then frameOctet os a else s.fbOctet a) ∧
      (s.fb.wf s.config → m.wf s.config)

/-- R101, R45: a report with a negative count, or with an error whatever its count, or of a closed source, is
`Err(AcquisitionFailed)`: the answer is drawn, the buffer becomes unspecified (no octet of it is known any more, log 2), no
record, no line, and the block is untouched. -/
def Obligations.AcquireFailure : Prop :=
  ∀ (r : Report) (s : State), s.MayAcquire → s.answer = some r → (∀ os, r ≠ .returned os false) →
    ∃ h : Handle, (h = s.handle ∨ (r = .sourceClosed ∧ h = .closed)) ∧
      exec .acquire s = .next { s.drawn with
        fb := []
        fbEpoch := s.fbEpoch + 1
        handle := h
        pos := .step2 .failed
        out := some (.acquired .failed)
        reads := [] }

/-- R108, R136, with 20_memory R45: where the source has been closed the call fails at once, whatever the source would answer, and
draws no answer (that it draws none: log 14). That no octet of the buffer is known any more is R45 as log 2 reads it. -/
def Obligations.ClosedSourceFailsTheCall : Prop :=
  ∀ (s : State), s.phase = .idle → s.handle = .closed → (s.pos = .blocked ∨ (s.pos = .step1 ∧ s.cancelFlag = false)) →
    exec .acquire s = .next { s with
      fb := []
      fbEpoch := s.fbEpoch + 1
      pos := .step2 .failed
      out := some (.acquired .failed)
      reads := [] }

/-- R100, R136: while the source has no report the call blocks: all state survives the wait, but for the model's own account of
the answers drawn (log 6), and the loop stays in the call. -/
def Obligations.AcquireBlocksWithoutReport : Prop :=
  ∀ (s : State), s.MayAcquire → s.answer = none →
    exec .acquire s = .next { s.drawn with pos := .blocked, out := none, reads := [] } ∧
    exec .loopIter s = .next { s.drawn with pos := .blocked, out := none, reads := [] }

/-- R108: the flag is tested before the call only: a call that is already blocked returns its frame although cancellation
was raised meanwhile. -/
def Obligations.CancelDoesNotReachABlockedCall : Prop :=
  ∀ (os : List Octet) (s : State), s.phase = .idle → s.handle = .opened → s.pos = .blocked → s.cancelFlag = true →
    s.answer = some (.returned os false) → os.length ≤ s.config.capacity →
    ∃ t, exec .acquire s = .next t ∧ t.pos = .step2 (.ok os.length) ∧ t.cancelFlag = true

/-- R127, R108: at step 1 the cancellation flag is tested first: the loop stops, the source is not called whatever it would
report, no error surfaces. The same for an iteration. That the operation ACQUIRE itself makes the loop's test and stops the
loop is the model's reading (log 13): R100 gives ACQUIRE no test, R102 and R116 give it to the loop. -/
def Obligations.CancelIsTestedBeforeAcquire : Prop :=
  ∀ (s : State), s.phase = .idle → s.handle ≠ .unavailable → s.pos = .step1 → s.cancelFlag = true →
    exec .acquire s = .next { s with pos := .stopped .cancelled, out := some (.stopped .cancelled), reads := [] } ∧
    exec .loopIter s = .next { s with pos := .stopped .cancelled, out := some (.stopped .cancelled), reads := [] } ∧
    stopCondition .cancelled = none

/-- R123, R127, R144: where the Frame Source could not be initialised, this precedes everything: a loop that has not stopped
stops with `SourceUnavailable`, by ACQUIRE, by LOOP_ITER and by the system's own step, whatever else is the case; no request
reaches the block, in a stopped loop neither (that it is seen at a step, and not before the first: log 22). -/
def Obligations.SourceUnavailableStopsBeforeStart : Prop :=
  ∀ (s t : State), s.handle = .unavailable →
    t = { s with pos := .stopped .sourceUnavailable, out := some (.stopped .sourceUnavailable), reads := [] } →
    ((∀ why, s.pos ≠ .stopped why) →
      exec .acquire s = .next t ∧ exec .loopIter s = .next t ∧ (s.script = [] → step s = .next t)) ∧
    (∀ n : Nat, n ≤ s.config.capacity → exec (.parse n) s = .next { s with out := none, reads := [] })

/-- R145, R57: ACQUIRE, alone or in an iteration, while a PARSE is open is the fault `BufferRace` (any call, also one that would
write nothing, and also where the cancellation flag is set, which is not tested first: the model's, log 13). -/
def Obligations.AcquireWhileBusyIsBufferRace : Prop :=
  ∀ (s : State), s.phase = .busy → s.handle ≠ .unavailable → (∀ why, s.pos ≠ .stopped why) →
    exec .acquire s = .fault .bufferRace ∧ exec .loopIter s = .fault .bufferRace

/-- R145, R120: that is the only fault there is: an operation faults only when it calls the source of a busy block. -/
def Obligations.OnlyAcquisitionWhileBusyFaults : Prop :=
  ∀ (i : Instr) (s : State) (f : Fault), exec i s = .fault f →
    f = .bufferRace ∧ s.phase = .busy ∧ (i = .acquire ∨ i = .loopIter)

/-- R108: CANCEL sets the cancellation flag and changes nothing else; raised twice it is the same as once. -/
def Obligations.CancelSetsTheFlag : Prop :=
  ∀ (s : State), exec .cancel s = .next { s with cancelFlag := true, out := none, reads := [] } ∧
    exec .cancel { s with cancelFlag := true, out := none, reads := [] } =
      .next { s with cancelFlag := true, out := none, reads := [] }

/-- R105, R116: an iteration that acquires a frame of 14 octets or more hands exactly one line to the sink, that of the record
with the whole frame's count and the frame's own octets, whatever the buffer held before, and is back at step 1 with the
block idle. The order of the reads is log 23; that the buffer's octets from the frame's length on are as they were (20_memory R45,
R46) is log 15. -/
def Obligations.IterationEmitsOneLine : Prop :=
  ∀ (os : List Octet) (s : State), s.MayAcquire → s.answer = some (.returned os false) →
    14 ≤ os.length → os.length ≤ s.config.capacity →
    ∃ t : State, exec .loopIter s = .next t ∧
      t.lines = s.lines ++ [renderLine (recordFrom (frameOctet os) os.length)] ∧
      t.pos = .step1 ∧ t.phase = .idle ∧ t.rsp = none ∧ t.answers = s.drawn.answers ∧ t.polls = s.drawn.polls ∧
      t.handle = s.handle ∧ t.cancelFlag = s.cancelFlag ∧ t.script = s.script ∧ t.config = s.config ∧
      t.reads = [0, 1, 2, 3, 4, 5, 6, 7, 8, 9, 10, 11, 12, 13] ∧
      (∀ a, t.fbOctet a = if a < os.length then frameOctet os a else s.fbOctet a)

/-- R104, R121: an iteration that acquires a shorter frame emits nothing, keeps no trace of it but the octets in the buffer,
reads none of them, and the loop goes on at step 1. That the buffer's octets from the frame's length on are as they were
(20_memory R45, R46) is log 15. -/
def Obligations.IterationSkipsShortFrame : Prop :=
  ∀ (os : List Octet) (s : State), s.MayAcquire → s.answer = some (.returned os false) → os.length < 14 →
    ∃ t : State, exec .loopIter s = .next t ∧ t.lines = s.lines ∧ t.out = some (.response .truncated) ∧ t.reads = [] ∧
      t.pos = .step1 ∧ t.phase = .idle ∧ t.rsp = none ∧ t.answers = s.drawn.answers ∧ t.polls = s.drawn.polls ∧
      t.handle = s.handle ∧ t.cancelFlag = s.cancelFlag ∧ t.script = s.script ∧ t.config = s.config ∧
      (∀ a, t.fbOctet a = if a < os.length then frameOctet os a else s.fbOctet a)

/-- R103: an iteration whose acquisition fails, by a failing report or because the source has been closed, emits no record,
does not invoke the block, and stops the loop with the error observable by the caller (code 2); the source is not called
again, by an acquisition or another iteration. That a closed source draws no answer is log 14; what the two operations do in a
stopped loop is logs 13 and 20. -/
def Obligations.IterationStopsOnAcquisitionError : Prop :=
  ∀ (s d : State), s.phase = .idle → (s.pos = .blocked ∨ (s.pos = .step1 ∧ s.cancelFlag = false)) →
    ((s.handle = .opened ∧ d = s.drawn ∧ ∃ r, s.answer = some r ∧ ∀ os, r ≠ .returned os false) ∨
      (s.handle = .closed ∧ d = s)) →
    ∃ t : State, exec .loopIter s = .next t ∧ t.pos = .stopped .acquisitionFailed ∧
      t.out = some (.stopped .acquisitionFailed) ∧ t.lines = s.lines ∧ t.answers = d.answers ∧ t.polls = d.polls ∧ t.reads = [] ∧
      t.phase = s.phase ∧ t.reqLen = s.reqLen ∧ t.rsp = s.rsp ∧ t.cancelFlag = s.cancelFlag ∧ t.script = s.script ∧
      t.config = s.config ∧ conditionCode (stopCondition .acquisitionFailed) = 2 ∧
      exec .acquire t = .next { t with out := none, reads := [] } ∧
      exec .loopIter t = .next { t with out := none, reads := [] }

/-- R28, R106, R107 (what the operations do there is the model's choice, log 20): in the middle of an iteration the next
acquisition or iteration has not come yet, and in a loop that has stopped there is none: neither changes the state, but for
what was handed over. -/
def Obligations.NoIterationInsideAnotherOrAfterTheEnd : Prop :=
  ∀ (s : State),
    (s.handle ≠ .unavailable → s.phase = .idle → s.pos.midIteration = true → exec .acquire s = .next s ∧ exec .loopIter s = .next s) ∧
    (∀ why, s.pos = .stopped why → exec .acquire s = .next { s with out := none, reads := [] } ∧
      exec .loopIter s = .next { s with out := none, reads := [] })

/-- R116, R28: an iteration is the loop's own steps one after the other: with nothing placed, the block idle and the loop
between two iterations, running the machine one to five steps reaches the state LOOP_ITER gives, again between two iterations,
but for what the last step handed over and read. That five steps are enough rests on step 3 being one move (log 8). -/
def Obligations.IterationIsItsSteps : Prop :=
  ∀ (s t : State), s.script = [] → s.phase = .idle → s.pos.midIteration = false → exec .loopIter s = .next t →
    t.pos.midIteration = false ∧
    ∃ k u, 1 ≤ k ∧ k ≤ 5 ∧ Sys2Proof.core.run k s = .next u ∧
      { u with out := none, reads := [] } = { t with out := none, reads := [] }

/-- R28, R107: the loop's position advances 1, 2, 3, 4, 5 and back to 1, skips step 4 when the frame is truncated, and leaves
the cycle at step 2 on an error (that step 3 is one step: log 8). -/
def Obligations.LoopStepsInOrder : Prop :=
  ∀ (s : State), s.script = [] → s.phase = .idle → s.handle ≠ .unavailable →
    (∀ os, s.MayAcquire → s.answer = some (.returned os false) → os.length ≤ s.config.capacity →
      ∃ t, step s = .next t ∧ t.pos = .step2 (.ok os.length)) ∧
    (s.pos = .step2 .failed → ∃ t, step s = .next t ∧ t.pos = .stopped .acquisitionFailed ∧ t.lines = s.lines) ∧
    (∀ n, s.pos = .step2 (.ok n) → ∃ t, step s = .next t ∧ t.pos = .step3 n) ∧
    (∀ n, s.pos = .step3 n → 14 ≤ n → n ≤ s.config.capacity → ∃ t r, step s = .next t ∧ t.pos = .step4 r ∧ r.len = n) ∧
    (∀ n, s.pos = .step3 n → n < 14 → ∃ t, step s = .next t ∧ t.pos = .step5) ∧
    (∀ r, s.pos = .step4 r → ∃ t, step s = .next t ∧ t.pos = .step5 ∧ t.lines = s.lines ++ [renderLine r]) ∧
    (s.pos = .step5 → ∃ t, step s = .next t ∧ t.pos = .step1 ∧ t.fb = s.fb ∧ t.fbEpoch = s.fbEpoch ∧ t.lines = s.lines)

/-! ## Text -/

/-- R109: MAKE_RECORD hands over the record with the whole frame's count and the header's fields. Outside its operand's range it
does the same with a length from 0 to `CAPACITY` that no rule states (the model's choice, log 24). -/
def Obligations.MakeRecordKeepsFieldsAndLength : Prop :=
  ∀ (n : Nat) (h : Header) (s : State),
    (14 ≤ n → n ≤ s.config.capacity → exec (.makeRecord n h) s =
      .next { s with out := some (.record { len := n, dst := h.dst, src := h.src, proto := h.proto }), reads := [] }) ∧
    (n < 14 ∨ s.config.capacity < n → ∃ l : Nat, l ≤ s.config.capacity ∧ exec (.makeRecord n h) s =
      .next { s with
        out := some (.record { len := l, dst := h.dst, src := h.src, proto := h.proto })
        reads := []
        draws := s.draws + 1 })

/-- R110: HEX2 hands over exactly two digits, of `o[7:4]` then `o[3:0]`, HEX4 exactly four, of `v[15:12]` down to `v[3:0]`, from
the lowercase table, leading zeros kept; HEX4 is HEX2 of the upper octet, then HEX2 of the lower. -/
def Obligations.HexIsLowercaseAndPadded : Prop :=
  ∀ (o : Octet) (v : U16) (s : State),
    (∃ c d : Char,
      exec (.hex2 o) s = .next { s with out := some (.text [c, d]), reads := [] } ∧
      ['0', '1', '2', '3', '4', '5', '6', '7', '8', '9', 'a', 'b', 'c', 'd', 'e', 'f'][o.toNat / 16]? = some c ∧
      ['0', '1', '2', '3', '4', '5', '6', '7', '8', '9', 'a', 'b', 'c', 'd', 'e', 'f'][o.toNat % 16]? = some d) ∧
    (∃ c d e f : Char,
      exec (.hex4 v) s = .next { s with out := some (.text [c, d, e, f]), reads := [] } ∧
      exec (.hex2 (v.extractLsb' 8 8)) s = .next { s with out := some (.text [c, d]), reads := [] } ∧
      exec (.hex2 (v.extractLsb' 0 8)) s = .next { s with out := some (.text [e, f]), reads := [] })

/-- R111: ADDR hands over seventeen characters: the six octets' HEX2, octet 0 leftmost, joined by colons. -/
def Obligations.AddrJoinsSixGroups : Prop :=
  ∀ (a : Addr) (s : State), ∃ g0 g1 g2 g3 g4 g5 : List Char, ∃ t : State,
    t = { s with
      out := some (.text (g0 ++ [':'] ++ g1 ++ [':'] ++ g2 ++ [':'] ++ g3 ++ [':'] ++ g4 ++ [':'] ++ g5)), reads := [] } ∧
    exec (.addr a) s = .next t ∧
    (g0 ++ [':'] ++ g1 ++ [':'] ++ g2 ++ [':'] ++ g3 ++ [':'] ++ g4 ++ [':'] ++ g5).length = 17 ∧
    exec (.hex2 a.o0) s = .next { s with out := some (.text g0), reads := [] } ∧
    exec (.hex2 a.o1) s = .next { s with out := some (.text g1), reads := [] } ∧
    exec (.hex2 a.o2) s = .next { s with out := some (.text g2), reads := [] } ∧
    exec (.hex2 a.o3) s = .next { s with out := some (.text g3), reads := [] } ∧
    exec (.hex2 a.o4) s = .next { s with out := some (.text g4), reads := [] } ∧
    exec (.hex2 a.o5) s = .next { s with out := some (.text g5), reads := [] }

/-- R112: DEC hands over decimal digits whose value is the number, most significant first, with no leading zero unless the
number is zero, and then one digit. -/
def Obligations.DecIsDecimalWithoutLeadingZeros : Prop :=
  ∀ (n : Nat) (s : State), ∃ ds : List Nat,
    exec (.dec n) s = .next { s with out := some (.text (ds.map fun d => Char.ofNat (48 + d))), reads := [] } ∧
    (∀ d ∈ ds, d < 10) ∧ ds.foldl (fun v d => 10 * v + d) 0 = n ∧ ds ≠ [] ∧
    (ds.head? = some 0 → n = 0 ∧ ds.length = 1)

/-- R113, R73: RENDER_LINE of a record hands over the one line of the layout, built of DEC, ADDR and HEX4, of
`96 + |DEC(len)|` characters, with no terminator; it is total. -/
def Obligations.RenderLineLayout : Prop :=
  ∀ (r : Record) (s : State), ∃ n d c p l : List Char,
    exec (.dec r.len) s = .next { s with out := some (.text n), reads := [] } ∧
    exec (.addr r.dst) s = .next { s with out := some (.text d), reads := [] } ∧
    exec (.addr r.src) s = .next { s with out := some (.text c), reads := [] } ∧
    exec (.hex4 r.proto) s = .next { s with out := some (.text p), reads := [] } ∧
    l = "Packet (".toList ++ n ++ " bytes): Destination: |".toList ++ d ++ "| Source: |".toList ++ c ++
      "| Protocol: |0x".toList ++ p ++ "|".toList ∧
    exec (.renderLine r) s = .next { s with out := some (.text l), reads := [] } ∧
    l.length = 96 + n.length

/-- 41_environment R110 to R113: the line loses nothing: two records with the same line are the same record. -/
def Obligations.LineDeterminesRecord : Prop :=
  ∀ (r r' : Record) (s : State),
    exec (.renderLine r) s = exec (.renderLine r') s → r = r'

/-! ## Whole-machine rules -/

/-- R44, R45: the block never writes the FrameBuffer: no operation but the two that acquire changes it. -/
def Obligations.OnlyAcquisitionWritesTheBuffer : Prop :=
  ∀ (i : Instr) (s t : State), exec i s = .next t → i ≠ .acquire → i ≠ .loopIter → t.fb = s.fb ∧ t.fbEpoch = s.fbEpoch

/-- R107, R121, R153, with R123 and R144: what can stop the loop, in the states that every step keeps to: only step 1, or step
2 on an error, always from an idle block, without a line, for one of three reasons: the loop's two exits, and the source that
could not be initialised, which the spec keeps from starting the loop and the model stops at a step (log 22).
`AcquisitionFailed` comes of a failed acquisition only: the loop is at step 2 with it, or the step runs a placed LOOP_ITER
whose call fails. A truncated frame never stops it. -/
def Obligations.WhatStopsTheLoop : Prop :=
  ∀ (s t : State) (why : StopReason), s.Inv → step s = .next t → (∀ w, s.pos ≠ .stopped w) → t.pos = .stopped why →
    s.phase = .idle ∧ t.phase = .idle ∧ t.lines = s.lines ∧
    (why = .sourceUnavailable → s.handle = .unavailable) ∧ (why = .cancelled → s.cancelFlag = true) ∧
    (why = .acquisitionFailed → s.pos = .step2 .failed ∨
      ((∃ rest, s.fetch = some (.ok (.loopIter, rest))) ∧
        (s.handle = .closed ∨ ∃ r, s.answer = some r ∧ ∀ os, r ≠ .returned os false)))

/-- R103, R129, R130: a loop that has stopped stays stopped, for the same reason, draws no more answers of the source (placed ones
stay, and more may be placed behind them), and hands the sink no more lines. That a placed RESET leaves it stopped is the model's
reading (log 10). -/
def Obligations.StoppedIsFinal : Prop :=
  ∀ (s t : State) (why : StopReason), step s = .next t → s.pos = .stopped why →
    t.pos = .stopped why ∧ s.answers <+: t.answers ∧ t.polls = s.polls ∧ t.lines = s.lines ∧ t.fb = s.fb ∧ t.fbEpoch = s.fbEpoch

/-- R108, R34: the cancellation flag is never cleared, and only CANCEL sets it. That a placed RESET keeps it is the model's
reading (log 10): R36 lists the flag as false after reset, and log 10 takes that as the start of a run. -/
def Obligations.CancelFlagIsNeverCleared : Prop :=
  ∀ (s t : State), step s = .next t →
    (s.cancelFlag = true → t.cancelFlag = true) ∧
    (s.cancelFlag = false → t.cancelFlag = true → ∃ rest, s.fetch = some (.ok (.cancel, rest)))

/-- R105, R114, R153: the sink's lines only grow, by at most one in a step, and only by the line of a frame of 14 octets or more
that was acquired: the loop was at step 4 with that record, which is the buffer's as it stands, or the step runs a placed
LOOP_ITER on that frame. The loop comes to step 4 only with a record of the current frame's length, and a length becomes the
current one only when this step draws a frame of that many octets. -/
def Obligations.LinesGrowByRecordsOnly : Prop :=
  ∀ (s t : State), s.Inv → step s = .next t →
    (t.lines = s.lines ∨
      (∃ r, s.pos = .step4 r ∧ 14 ≤ r.len ∧ r = recordFrom s.fbOctet r.len ∧ t.lines = s.lines ++ [renderLine r]) ∨
      (∃ os rest, s.fetch = some (.ok (.loopIter, rest)) ∧ s.answer = some (.returned os false) ∧
        t.answers = s.drawn.answers ∧ t.polls = s.drawn.polls ∧ 14 ≤ os.length ∧
        t.lines = s.lines ++ [renderLine (recordFrom (frameOctet os) os.length)])) ∧
    (∀ r, t.pos = .step4 r → s.pos = .step4 r ∨ s.pos.frameLen = some r.len) ∧
    (∀ n, t.pos.frameLen = some n → s.pos.frameLen = some n ∨
      ∃ os, s.answer = some (.returned os false) ∧ t.answers = s.drawn.answers ∧ t.polls = s.drawn.polls ∧ n = os.length)

/-- R152, R91, R104, R105, R153: a busy block with nothing placed is answered by the next step: its response is handed over
and it is idle (by the very next step: log 19). A loop in step 3 on that request goes to step 4 with the record, so that its
line follows, or to step 5 on `TruncatedFrame`; else the loop keeps its place (log 21). -/
def Obligations.BusyBlockIsAnswered : Prop :=
  ∀ (s : State), s.Inv → s.phase = .busy → s.script = [] →
    ∃ t, step s = .next t ∧ t.phase = .idle ∧ t.out = some (.response (s.respond s.reqLen).value) ∧
      t.fb = s.fb ∧ t.fbEpoch = s.fbEpoch ∧ t.lines = s.lines ∧ t.answers = s.answers ∧ t.polls = s.polls ∧
      (s.pos = .step3 s.reqLen → 14 ≤ s.reqLen → t.pos = .step4 (recordFrom s.fbOctet s.reqLen)) ∧
      (s.pos = .step3 s.reqLen → s.reqLen < 14 → t.pos = .step5) ∧
      (s.pos ≠ .step3 s.reqLen → t.pos = s.pos)

/-- Every step keeps the invariant: canonical memory, a response offered exactly by a busy block and equal to DECODE of the
buffer as it stands, a latch of `LEN_W` bits, a loop in step 3 while its own request is open, legal lengths in the loop, the
current frame written, the record of step 4 the buffer's, only records' lines at the sink, and nothing happening where the
source could not be initialised (R20, R24, R25, R90, R105, R144, R145). The configuration never changes (R7). -/
def Obligations.EveryStepKeepsTheInvariant : Prop :=
  ∀ (s t : State), s.Inv → step s = .next t → t.Inv ∧ t.config = s.config

/-- The invariant holds at reset, in every configuration. -/
def Obligations.ResetHasTheInvariant : Prop := ∀ c : Config, State.Inv { State.reset with config := c }

/-- R33, R147: an iteration's line does not depend on what the buffer held before: two states that may acquire and have the
same report ready hand the sink the same lines after it, however their buffers differ. -/
def Obligations.StaleOctetsNeverShow : Prop :=
  ∀ (s t u v : State) (r : Report), s.MayAcquire → t.MayAcquire → s.answer = some r → t.answer = some r →
    s.lines = t.lines → exec .loopIter s = .next u → exec .loopIter t = .next v →
    u.lines = v.lines ∧ u.out = v.out ∧ u.reads = v.reads ∧ u.pos = v.pos

/-! ## Ports, codes, encoding, stepping -/

/-- R8, R70, R71, R72, R75: the widths are the least that hold every length and every offset; what the response port shows
while a record is offered: status 00, the length, all six octets of each address with octet 0 in the top position, the type
value; while `TruncatedFrame` is offered, status 01. `req_ready` is 1 exactly when idle, `rsp_valid` exactly when a response is
offered; offsets below 14 pass through `buf_addr` unchanged. -/
def Obligations.ResponsePortLayout : Prop :=
  ∀ (s : State) (w : Nat), w = s.config.lenWidth →
    (2 ^ (w - 1) ≤ s.config.capacity ∧ s.config.capacity < 2 ^ w) ∧
    (2 ^ (s.config.addrWidth - 1) < s.config.capacity ∧ s.config.capacity ≤ 2 ^ s.config.addrWidth) ∧
    (s.reqReady = true ↔ s.phase = .idle) ∧ (s.rspValid = true ↔ s.rsp ≠ none) ∧
    ((∀ a ∈ s.reads, a < 14) → s.bufAddrs.map BitVec.toNat = s.reads) ∧
    (∀ r : Record, s.rsp = some (.ok r) →
      s.rspPort.extractLsb' (w + 112) 2 = 0 ∧
      (r.len < 2 ^ w → (s.rspPort.extractLsb' 112 w).toNat = r.len) ∧
      s.rspPort.extractLsb' 104 8 = r.dst.o0 ∧ s.rspPort.extractLsb' 96 8 = r.dst.o1 ∧
      s.rspPort.extractLsb' 88 8 = r.dst.o2 ∧ s.rspPort.extractLsb' 80 8 = r.dst.o3 ∧
      s.rspPort.extractLsb' 72 8 = r.dst.o4 ∧ s.rspPort.extractLsb' 64 8 = r.dst.o5 ∧
      s.rspPort.extractLsb' 56 8 = r.src.o0 ∧ s.rspPort.extractLsb' 48 8 = r.src.o1 ∧
      s.rspPort.extractLsb' 40 8 = r.src.o2 ∧ s.rspPort.extractLsb' 32 8 = r.src.o3 ∧
      s.rspPort.extractLsb' 24 8 = r.src.o4 ∧ s.rspPort.extractLsb' 16 8 = r.src.o5 ∧
      s.rspPort.extractLsb' 0 16 = r.proto) ∧
    (s.rsp = some .truncated → s.rspPort.extractLsb' (w + 112) 2 = 1)

/-- R124, R121 to R123: the codes of the conditions, which are fatal, and that the block drives `rsp_status` 0 or 1 only. -/
def Obligations.ConditionCodes : Prop :=
  conditionCode none = 0 ∧ conditionCode (some .truncatedFrame) = 1 ∧ conditionCode (some .acquisitionFailed) = 2 ∧
  conditionCode (some .sourceUnavailable) = 3 ∧ conditionFatal .truncatedFrame = false ∧
  conditionFatal .acquisitionFailed = true ∧ conditionFatal .sourceUnavailable = true ∧
  (∀ r : Record, rspStatus (.ok r) = 0) ∧ rspStatus .truncated = 1

/-- Decoding an encoded well-formed operation gives it back and leaves what follows it, for every operation, every operand and
every configuration (the script's selector octets are the model's choice, log 7; the operand vectors are R61, R69, R75). -/
def Obligations.DecodeOfEncode : Prop :=
  ∀ (c : Config) (i : Instr) (rest : List Octet), i.WellFormed c → decode c (encode c i ++ rest) = .ok (i, rest)

/-- The decoder accepts only well-formed operations, and only their encodings; for a truncated response that is selector 10, the
octets of a number whose bits above the `LEN_W` of a length are status 01, and fourteen octets of any value (30_encoding R70; the
script's form is the model's choice, log 7). -/
def Obligations.DecodeAcceptsOnlyEncodings : Prop :=
  ∀ (c : Config) (bs rest : List Octet) (i : Instr), decode c bs = .ok (i, rest) →
    i.WellFormed c ∧ (i ≠ .rspTrunc → bs = encode c i ++ rest) ∧
    (i = .rspTrunc → ∃ (v : Nat) (w : List Octet), bs = 10 :: (octetsOf c.rspOctets v ++ (w ++ rest)) ∧
      v / 2 ^ c.lenWidth = 1 ∧ w.length = 14)

/-- A few words written out from the table's vectors (R61, R69, R75): the worked example's header, a request of 64, the pair
`08 00`, a response. -/
def Obligations.TableWordsDecode : Prop :=
  decodeTableWord 24 64 = some (.parse 64) ∧
  decodeTableWord 16 0x0800 = some (.ntoh16 0x08 0x00) ∧
  decodeTableWord 112 0xaabbccddeeff1122334455660800 = some (.getDst 0xaabbccddeeff1122334455660800) ∧
  decodeTableWord 136 0x0040aabbccddeeff1122334455660800 =
    some (.rspOk ⟨64, ⟨0xaa, 0xbb, 0xcc, 0xdd, 0xee, 0xff⟩, ⟨0x11, 0x22, 0x33, 0x44, 0x55, 0x66⟩, 0x0800⟩) ∧
  decodeTableWord 136 0x200000000000000000000000000000000 = some .rspTrunc ∧
  decodeTableWord 24 65537 = none

/-- A step runs the placed operation: when the script's octets decode to a well-formed operation that need not wait, the step
is `exec` of it on the state with those octets gone; when it must wait the step is the system's own, the script untouched.
Written out: a PARSE waits exactly while the block is busy or the loop is at step 2 with an error, at step 4 or at step 5;
ACQUIRE and LOOP_ITER wait exactly while the block is idle and the loop in the middle of an iteration; nothing else waits.
With nothing placed, or only part of an operation's octets or of a frame's, the step is the system's own; octets that place an
answer of the source (30_encoding R76) put it behind those placed before; octets that name neither are dropped; a response
that the block never produces and a length above `CAPACITY` are refused (the model's scheduling and script, logs 7 and 8). -/
def Obligations.StepRunsPlacedOperation : Prop :=
  ∀ (s : State),
    (∀ (i : Instr) (rest : List Octet) (waits : Prop), i.WellFormed s.config → decode s.config s.script = .ok (i, rest) →
      (waits ↔
        ((∃ n, i = .parse n) ∧
            (s.phase = .busy ∨ s.pos = .step2 .failed ∨ (∃ r, s.pos = .step4 r) ∨ s.pos = .step5)) ∨
          ((i = .acquire ∨ i = .loopIter) ∧ s.phase = .idle ∧
            ((∃ a, s.pos = .step2 a) ∨ (∃ n, s.pos = .step3 n) ∨ (∃ r, s.pos = .step4 r) ∨ s.pos = .step5))) →
      (¬ waits → step s = exec i { s with script := rest }) ∧ (waits → step s = s.advance)) ∧
    (s.script = [] → step s = s.advance) ∧
    (∀ (a : Answer) (rest : List Octet),
      (∃ os, a = some (.returned os false) ∧ os.length < 2 ^ s.config.lenWidth ∧
          s.script = 22 :: (octetsOf s.config.lenOctets os.length ++ (os ++ rest))) ∨
        (a = some (.negative 0) ∧ s.script = 23 :: rest) ∨ (a = some .sourceClosed ∧ s.script = 24 :: rest) ∨
        (a = none ∧ s.script = 25 :: rest) →
      step s = .next { s with answers := s.answers ++ [a], script := rest, out := none, reads := [] }) ∧
    (∀ (k : Nat) (os : List Octet), os.length < k → k < 2 ^ s.config.lenWidth →
      s.script = 22 :: (octetsOf s.config.lenOctets k ++ os) → step s = s.advance) ∧
    (∀ e, s.script ≠ [] → decode s.config s.script = .error e →
      (e = .scriptEnds → step s = s.advance) ∧
      ((∃ sel, e = .unknownSelector sel ∧ (sel.toNat < 22 ∨ 25 < sel.toNat)) ∨ e = .reservedBits →
        step s = .next { s with script := skipRow s.config s.script, out := none, reads := [] }) ∧
      (e = .statusNeverProduced → step s = .refused .statusNeverProduced) ∧
      ((∃ d, e = .illFormed d) → step s = .refused .lengthBeyondCapacity))
end

