-- ==== Sys2Proof/Laws/Config.lean ====
section
/-! SUPPORT. The widths of a configuration are the least that hold its lengths and its offsets (00_scope R8). -/

namespace Sys2Proof

/-- `LEN_W` bits hold every length up to `CAPACITY`, and one bit fewer would not. -/
theorem Config.lenWidth_least (c : Config) : 2 ^ (c.lenWidth - 1) ≤ c.capacity ∧ c.capacity < 2 ^ c.lenWidth := by
  have h : c.capacity ≠ 0 := by have := c.header_fits; simp only [Config.hdrLen] at this; omega
  exact ⟨Nat.log2_self_le h, Nat.lt_log2_self⟩

/-- `BUF_ADDR_W` bits hold every offset below `CAPACITY`, and one bit fewer would not. -/
theorem Config.addrWidth_least (c : Config) : 2 ^ (c.addrWidth - 1) < c.capacity ∧ c.capacity ≤ 2 ^ c.addrWidth := by
  have h0 := c.header_fits
  simp only [Config.hdrLen] at h0
  have h : c.capacity - 1 ≠ 0 := by omega
  have h1 := Nat.log2_self_le h
  have h2 := Nat.lt_log2_self (n := c.capacity - 1)
  simp only [Config.addrWidth, Nat.add_sub_cancel]
  omega

/-- The widths of the default configuration. -/
theorem Config.default_widths : Config.default.lenWidth = 17 ∧ Config.default.addrWidth = 16 := ⟨rfl, rfl⟩

/-- A length up to `CAPACITY` is one of `LEN_W` bits. -/
theorem Config.lt_of_le_capacity {c : Config} {n : Nat} (h : n ≤ c.capacity) : n < 2 ^ c.lenWidth :=
  lt_of_le_of_lt h (c.lenWidth_least).2

/-- The octets of a length hold its `LEN_W` bits. -/
theorem Config.lenOctets_hold (c : Config) : 2 ^ c.lenWidth ≤ 256 ^ c.lenOctets := by
  rw [show 256 = 2 ^ 8 from rfl, ← Nat.pow_mul]
  exact Nat.pow_le_pow_right (by omega) (by simp only [Config.lenOctets]; omega)

/-- The octets of a response's status and length hold their `2 + LEN_W` bits. -/
theorem Config.rspOctets_hold (c : Config) : 2 ^ (c.lenWidth + 2) ≤ 256 ^ c.rspOctets := by
  rw [show 256 = 2 ^ 8 from rfl, ← Nat.pow_mul]
  exact Nat.pow_le_pow_right (by omega) (by simp only [Config.rspOctets]; omega)

end Sys2Proof
end

