-- ==== Sys2Proof/Laws/State.lean ====
section
/-! SUPPORT. What each field of the state is after each shared update, so that no proof unfolds a record update. -/

namespace Sys2Proof.Machine

@[simp] theorem State.fresh_config (s : State) : s.fresh.config = s.config := rfl
@[simp] theorem State.fresh_phase (s : State) : s.fresh.phase = s.phase := rfl
@[simp] theorem State.fresh_reqLen (s : State) : s.fresh.reqLen = s.reqLen := rfl
@[simp] theorem State.fresh_rsp (s : State) : s.fresh.rsp = s.rsp := rfl
@[simp] theorem State.fresh_fb (s : State) : s.fresh.fb = s.fb := rfl
@[simp] theorem State.fresh_fbEpoch (s : State) : s.fresh.fbEpoch = s.fbEpoch := rfl
@[simp] theorem State.fresh_draws (s : State) : s.fresh.draws = s.draws := rfl
@[simp] theorem State.fresh_handle (s : State) : s.fresh.handle = s.handle := rfl
@[simp] theorem State.fresh_answers (s : State) : s.fresh.answers = s.answers := rfl
@[simp] theorem State.fresh_polls (s : State) : s.fresh.polls = s.polls := rfl
@[simp] theorem State.fresh_cancelFlag (s : State) : s.fresh.cancelFlag = s.cancelFlag := rfl
@[simp] theorem State.fresh_pos (s : State) : s.fresh.pos = s.pos := rfl
@[simp] theorem State.fresh_lines (s : State) : s.fresh.lines = s.lines := rfl
@[simp] theorem State.fresh_out (s : State) : s.fresh.out = none := rfl
@[simp] theorem State.fresh_reads (s : State) : s.fresh.reads = [] := rfl
@[simp] theorem State.fresh_script (s : State) : s.fresh.script = s.script := rfl

@[simp] theorem State.give_config (s : State) (v : Value) : (s.give v).config = s.config := rfl
@[simp] theorem State.give_phase (s : State) (v : Value) : (s.give v).phase = s.phase := rfl
@[simp] theorem State.give_reqLen (s : State) (v : Value) : (s.give v).reqLen = s.reqLen := rfl
@[simp] theorem State.give_rsp (s : State) (v : Value) : (s.give v).rsp = s.rsp := rfl
@[simp] theorem State.give_fb (s : State) (v : Value) : (s.give v).fb = s.fb := rfl
@[simp] theorem State.give_fbEpoch (s : State) (v : Value) : (s.give v).fbEpoch = s.fbEpoch := rfl
@[simp] theorem State.give_draws (s : State) (v : Value) : (s.give v).draws = s.draws := rfl
@[simp] theorem State.give_handle (s : State) (v : Value) : (s.give v).handle = s.handle := rfl
@[simp] theorem State.give_answers (s : State) (v : Value) : (s.give v).answers = s.answers := rfl
@[simp] theorem State.give_polls (s : State) (v : Value) : (s.give v).polls = s.polls := rfl
@[simp] theorem State.give_cancelFlag (s : State) (v : Value) : (s.give v).cancelFlag = s.cancelFlag := rfl
@[simp] theorem State.give_pos (s : State) (v : Value) : (s.give v).pos = s.pos := rfl
@[simp] theorem State.give_lines (s : State) (v : Value) : (s.give v).lines = s.lines := rfl
@[simp] theorem State.give_out (s : State) (v : Value) : (s.give v).out = some v := rfl
@[simp] theorem State.give_reads (s : State) (v : Value) : (s.give v).reads = [] := rfl
@[simp] theorem State.give_script (s : State) (v : Value) : (s.give v).script = s.script := rfl

@[simp] theorem State.stop_config (s : State) (why : StopReason) : (s.stop why).config = s.config := rfl
@[simp] theorem State.stop_phase (s : State) (why : StopReason) : (s.stop why).phase = s.phase := rfl
@[simp] theorem State.stop_reqLen (s : State) (why : StopReason) : (s.stop why).reqLen = s.reqLen := rfl
@[simp] theorem State.stop_rsp (s : State) (why : StopReason) : (s.stop why).rsp = s.rsp := rfl
@[simp] theorem State.stop_fb (s : State) (why : StopReason) : (s.stop why).fb = s.fb := rfl
@[simp] theorem State.stop_fbEpoch (s : State) (why : StopReason) : (s.stop why).fbEpoch = s.fbEpoch := rfl
@[simp] theorem State.stop_draws (s : State) (why : StopReason) : (s.stop why).draws = s.draws := rfl
@[simp] theorem State.stop_handle (s : State) (why : StopReason) : (s.stop why).handle = s.handle := rfl
@[simp] theorem State.stop_answers (s : State) (why : StopReason) : (s.stop why).answers = s.answers := rfl
@[simp] theorem State.stop_polls (s : State) (why : StopReason) : (s.stop why).polls = s.polls := rfl
@[simp] theorem State.stop_cancelFlag (s : State) (why : StopReason) : (s.stop why).cancelFlag = s.cancelFlag := rfl
@[simp] theorem State.stop_pos (s : State) (why : StopReason) : (s.stop why).pos = .stopped why := rfl
@[simp] theorem State.stop_lines (s : State) (why : StopReason) : (s.stop why).lines = s.lines := rfl
@[simp] theorem State.stop_out (s : State) (why : StopReason) : (s.stop why).out = some (.stopped why) := rfl
@[simp] theorem State.stop_reads (s : State) (why : StopReason) : (s.stop why).reads = s.reads := rfl
@[simp] theorem State.stop_script (s : State) (why : StopReason) : (s.stop why).script = s.script := rfl

@[simp] theorem State.endTransaction_config (s : State) : s.endTransaction.config = s.config := rfl
@[simp] theorem State.endTransaction_phase (s : State) : s.endTransaction.phase = .idle := rfl
@[simp] theorem State.endTransaction_reqLen (s : State) : s.endTransaction.reqLen = s.freeLatch := rfl
@[simp] theorem State.endTransaction_rsp (s : State) : s.endTransaction.rsp = none := rfl
@[simp] theorem State.endTransaction_fb (s : State) : s.endTransaction.fb = s.fb := rfl
@[simp] theorem State.endTransaction_fbEpoch (s : State) : s.endTransaction.fbEpoch = s.fbEpoch := rfl
@[simp] theorem State.endTransaction_draws (s : State) : s.endTransaction.draws = s.draws + 1 := rfl
@[simp] theorem State.endTransaction_handle (s : State) : s.endTransaction.handle = s.handle := rfl
@[simp] theorem State.endTransaction_answers (s : State) : s.endTransaction.answers = s.answers := rfl
@[simp] theorem State.endTransaction_polls (s : State) : s.endTransaction.polls = s.polls := rfl
@[simp] theorem State.endTransaction_cancelFlag (s : State) : s.endTransaction.cancelFlag = s.cancelFlag := rfl
@[simp] theorem State.endTransaction_pos (s : State) : s.endTransaction.pos = s.pos := rfl
@[simp] theorem State.endTransaction_lines (s : State) : s.endTransaction.lines = s.lines := rfl
@[simp] theorem State.endTransaction_out (s : State) : s.endTransaction.out = s.out := rfl
@[simp] theorem State.endTransaction_reads (s : State) : s.endTransaction.reads = s.reads := rfl
@[simp] theorem State.endTransaction_script (s : State) : s.endTransaction.script = s.script := rfl

@[simp] theorem State.offer_config (s : State) (n : Nat) : (s.offer n).config = s.config := rfl
@[simp] theorem State.offer_phase (s : State) (n : Nat) : (s.offer n).phase = s.phase := rfl
@[simp] theorem State.offer_reqLen (s : State) (n : Nat) : (s.offer n).reqLen = s.reqLen := rfl
@[simp] theorem State.offer_rsp (s : State) (n : Nat) : (s.offer n).rsp = some (s.respond n).value := rfl
@[simp] theorem State.offer_fb (s : State) (n : Nat) : (s.offer n).fb = s.fb := rfl
@[simp] theorem State.offer_fbEpoch (s : State) (n : Nat) : (s.offer n).fbEpoch = s.fbEpoch := rfl
@[simp] theorem State.offer_draws (s : State) (n : Nat) : (s.offer n).draws = s.draws := rfl
@[simp] theorem State.offer_handle (s : State) (n : Nat) : (s.offer n).handle = s.handle := rfl
@[simp] theorem State.offer_answers (s : State) (n : Nat) : (s.offer n).answers = s.answers := rfl
@[simp] theorem State.offer_polls (s : State) (n : Nat) : (s.offer n).polls = s.polls := rfl
@[simp] theorem State.offer_cancelFlag (s : State) (n : Nat) : (s.offer n).cancelFlag = s.cancelFlag := rfl
@[simp] theorem State.offer_pos (s : State) (n : Nat) : (s.offer n).pos = s.pos := rfl
@[simp] theorem State.offer_lines (s : State) (n : Nat) : (s.offer n).lines = s.lines := rfl
@[simp] theorem State.offer_out (s : State) (n : Nat) : (s.offer n).out = s.out := rfl
@[simp] theorem State.offer_reads (s : State) (n : Nat) : (s.offer n).reads = (s.respond n).reads := rfl
@[simp] theorem State.offer_script (s : State) (n : Nat) : (s.offer n).script = s.script := rfl

@[simp] theorem State.accept_config (s : State) (n : Nat) : (s.accept n).config = s.config := rfl
@[simp] theorem State.accept_phase (s : State) (n : Nat) : (s.accept n).phase = .busy := rfl
@[simp] theorem State.accept_reqLen (s : State) (n : Nat) : (s.accept n).reqLen = n := rfl
@[simp] theorem State.accept_rsp (s : State) (n : Nat) : (s.accept n).rsp = some (s.respond n).value := rfl
@[simp] theorem State.accept_fb (s : State) (n : Nat) : (s.accept n).fb = s.fb := rfl
@[simp] theorem State.accept_fbEpoch (s : State) (n : Nat) : (s.accept n).fbEpoch = s.fbEpoch := rfl
@[simp] theorem State.accept_draws (s : State) (n : Nat) : (s.accept n).draws = s.draws := rfl
@[simp] theorem State.accept_handle (s : State) (n : Nat) : (s.accept n).handle = s.handle := rfl
@[simp] theorem State.accept_answers (s : State) (n : Nat) : (s.accept n).answers = s.answers := rfl
@[simp] theorem State.accept_polls (s : State) (n : Nat) : (s.accept n).polls = s.polls := rfl
@[simp] theorem State.accept_cancelFlag (s : State) (n : Nat) : (s.accept n).cancelFlag = s.cancelFlag := rfl
@[simp] theorem State.accept_pos (s : State) (n : Nat) : (s.accept n).pos = s.pos.onRequest n := rfl
@[simp] theorem State.accept_lines (s : State) (n : Nat) : (s.accept n).lines = s.lines := rfl
@[simp] theorem State.accept_out (s : State) (n : Nat) : (s.accept n).out = s.out := rfl
@[simp] theorem State.accept_reads (s : State) (n : Nat) : (s.accept n).reads = (s.respond n).reads := rfl
@[simp] theorem State.accept_script (s : State) (n : Nat) : (s.accept n).script = s.script := rfl

@[simp] theorem State.take_config (s : State) (r : Response) : (s.take r).config = s.config := rfl
@[simp] theorem State.take_phase (s : State) (r : Response) : (s.take r).phase = .idle := rfl
@[simp] theorem State.take_reqLen (s : State) (r : Response) : (s.take r).reqLen = s.freeLatch := rfl
@[simp] theorem State.take_rsp (s : State) (r : Response) : (s.take r).rsp = none := rfl
@[simp] theorem State.take_fb (s : State) (r : Response) : (s.take r).fb = s.fb := rfl
@[simp] theorem State.take_fbEpoch (s : State) (r : Response) : (s.take r).fbEpoch = s.fbEpoch := rfl
@[simp] theorem State.take_draws (s : State) (r : Response) : (s.take r).draws = s.draws + 1 := rfl
@[simp] theorem State.take_handle (s : State) (r : Response) : (s.take r).handle = s.handle := rfl
@[simp] theorem State.take_answers (s : State) (r : Response) : (s.take r).answers = s.answers := rfl
@[simp] theorem State.take_polls (s : State) (r : Response) : (s.take r).polls = s.polls := rfl
@[simp] theorem State.take_cancelFlag (s : State) (r : Response) : (s.take r).cancelFlag = s.cancelFlag := rfl
@[simp] theorem State.take_pos (s : State) (r : Response) : (s.take r).pos = s.pos.afterResponse s.reqLen r := rfl
@[simp] theorem State.take_lines (s : State) (r : Response) : (s.take r).lines = s.lines := rfl
@[simp] theorem State.take_out (s : State) (r : Response) : (s.take r).out = some (.response r) := rfl
@[simp] theorem State.take_reads (s : State) (r : Response) : (s.take r).reads = s.reads := rfl
@[simp] theorem State.take_script (s : State) (r : Response) : (s.take r).script = s.script := rfl

@[simp] theorem State.emitLine_config (s : State) (r : Record) : (s.emitLine r).config = s.config := rfl
@[simp] theorem State.emitLine_phase (s : State) (r : Record) : (s.emitLine r).phase = s.phase := rfl
@[simp] theorem State.emitLine_reqLen (s : State) (r : Record) : (s.emitLine r).reqLen = s.reqLen := rfl
@[simp] theorem State.emitLine_rsp (s : State) (r : Record) : (s.emitLine r).rsp = s.rsp := rfl
@[simp] theorem State.emitLine_fb (s : State) (r : Record) : (s.emitLine r).fb = s.fb := rfl
@[simp] theorem State.emitLine_fbEpoch (s : State) (r : Record) : (s.emitLine r).fbEpoch = s.fbEpoch := rfl
@[simp] theorem State.emitLine_draws (s : State) (r : Record) : (s.emitLine r).draws = s.draws := rfl
@[simp] theorem State.emitLine_handle (s : State) (r : Record) : (s.emitLine r).handle = s.handle := rfl
@[simp] theorem State.emitLine_answers (s : State) (r : Record) : (s.emitLine r).answers = s.answers := rfl
@[simp] theorem State.emitLine_polls (s : State) (r : Record) : (s.emitLine r).polls = s.polls := rfl
@[simp] theorem State.emitLine_cancelFlag (s : State) (r : Record) : (s.emitLine r).cancelFlag = s.cancelFlag := rfl
@[simp] theorem State.emitLine_pos (s : State) (r : Record) : (s.emitLine r).pos = .step5 := rfl
@[simp] theorem State.emitLine_lines (s : State) (r : Record) : (s.emitLine r).lines = s.lines ++ [renderLine r] := rfl
@[simp] theorem State.emitLine_out (s : State) (r : Record) : (s.emitLine r).out = some (.text (renderLine r)) := rfl
@[simp] theorem State.emitLine_reads (s : State) (r : Record) : (s.emitLine r).reads = s.reads := rfl
@[simp] theorem State.emitLine_script (s : State) (r : Record) : (s.emitLine r).script = s.script := rfl

@[simp] theorem State.acqFailed_config (s : State) : s.acqFailed.config = s.config := rfl
@[simp] theorem State.acqFailed_phase (s : State) : s.acqFailed.phase = s.phase := rfl
@[simp] theorem State.acqFailed_reqLen (s : State) : s.acqFailed.reqLen = s.reqLen := rfl
@[simp] theorem State.acqFailed_rsp (s : State) : s.acqFailed.rsp = s.rsp := rfl
@[simp] theorem State.acqFailed_fb (s : State) : s.acqFailed.fb = [] := rfl
@[simp] theorem State.acqFailed_fbEpoch (s : State) : s.acqFailed.fbEpoch = s.fbEpoch + 1 := rfl
@[simp] theorem State.acqFailed_draws (s : State) : s.acqFailed.draws = s.draws := rfl
@[simp] theorem State.acqFailed_handle (s : State) : s.acqFailed.handle = s.handle := rfl
@[simp] theorem State.acqFailed_answers (s : State) : s.acqFailed.answers = s.answers := rfl
@[simp] theorem State.acqFailed_polls (s : State) : s.acqFailed.polls = s.polls := rfl
@[simp] theorem State.acqFailed_cancelFlag (s : State) : s.acqFailed.cancelFlag = s.cancelFlag := rfl
@[simp] theorem State.acqFailed_pos (s : State) : s.acqFailed.pos = .step2 .failed := rfl
@[simp] theorem State.acqFailed_lines (s : State) : s.acqFailed.lines = s.lines := rfl
@[simp] theorem State.acqFailed_out (s : State) : s.acqFailed.out = some (.acquired .failed) := rfl
@[simp] theorem State.acqFailed_reads (s : State) : s.acqFailed.reads = s.reads := rfl
@[simp] theorem State.acqFailed_script (s : State) : s.acqFailed.script = s.script := rfl

@[simp] theorem State.acqOk_config (s : State) (os : List Octet) : (s.acqOk os).config = s.config := rfl
@[simp] theorem State.acqOk_phase (s : State) (os : List Octet) : (s.acqOk os).phase = s.phase := rfl
@[simp] theorem State.acqOk_reqLen (s : State) (os : List Octet) : (s.acqOk os).reqLen = s.reqLen := rfl
@[simp] theorem State.acqOk_rsp (s : State) (os : List Octet) : (s.acqOk os).rsp = s.rsp := rfl
@[simp] theorem State.acqOk_fb (s : State) (os : List Octet) : (s.acqOk os).fb = s.fb.writeFrom 0 os := rfl
@[simp] theorem State.acqOk_fbEpoch (s : State) (os : List Octet) : (s.acqOk os).fbEpoch = s.fbEpoch := rfl
@[simp] theorem State.acqOk_draws (s : State) (os : List Octet) : (s.acqOk os).draws = s.draws := rfl
@[simp] theorem State.acqOk_handle (s : State) (os : List Octet) : (s.acqOk os).handle = s.handle := rfl
@[simp] theorem State.acqOk_answers (s : State) (os : List Octet) : (s.acqOk os).answers = s.answers := rfl
@[simp] theorem State.acqOk_polls (s : State) (os : List Octet) : (s.acqOk os).polls = s.polls := rfl
@[simp] theorem State.acqOk_cancelFlag (s : State) (os : List Octet) : (s.acqOk os).cancelFlag = s.cancelFlag := rfl
@[simp] theorem State.acqOk_pos (s : State) (os : List Octet) : (s.acqOk os).pos = .step2 (.ok os.length) := rfl
@[simp] theorem State.acqOk_lines (s : State) (os : List Octet) : (s.acqOk os).lines = s.lines := rfl
@[simp] theorem State.acqOk_out (s : State) (os : List Octet) : (s.acqOk os).out = some (.acquired (.ok os.length)) := rfl
@[simp] theorem State.acqOk_reads (s : State) (os : List Octet) : (s.acqOk os).reads = s.reads := rfl
@[simp] theorem State.acqOk_script (s : State) (os : List Octet) : (s.acqOk os).script = s.script := rfl

@[simp] theorem State.place_config (s : State) (nbits w : Nat) : (s.place nbits w).config = s.config := rfl
@[simp] theorem State.place_phase (s : State) (nbits w : Nat) : (s.place nbits w).phase = s.phase := rfl
@[simp] theorem State.place_reqLen (s : State) (nbits w : Nat) : (s.place nbits w).reqLen = s.reqLen := rfl
@[simp] theorem State.place_rsp (s : State) (nbits w : Nat) : (s.place nbits w).rsp = s.rsp := rfl
@[simp] theorem State.place_fb (s : State) (nbits w : Nat) : (s.place nbits w).fb = s.fb := rfl
@[simp] theorem State.place_fbEpoch (s : State) (nbits w : Nat) : (s.place nbits w).fbEpoch = s.fbEpoch := rfl
@[simp] theorem State.place_draws (s : State) (nbits w : Nat) : (s.place nbits w).draws = s.draws := rfl
@[simp] theorem State.place_handle (s : State) (nbits w : Nat) : (s.place nbits w).handle = s.handle := rfl
@[simp] theorem State.place_answers (s : State) (nbits w : Nat) : (s.place nbits w).answers = s.answers := rfl
@[simp] theorem State.place_polls (s : State) (nbits w : Nat) : (s.place nbits w).polls = s.polls := rfl
@[simp] theorem State.place_cancelFlag (s : State) (nbits w : Nat) : (s.place nbits w).cancelFlag = s.cancelFlag := rfl
@[simp] theorem State.place_pos (s : State) (nbits w : Nat) : (s.place nbits w).pos = s.pos := rfl
@[simp] theorem State.place_lines (s : State) (nbits w : Nat) : (s.place nbits w).lines = s.lines := rfl
@[simp] theorem State.place_out (s : State) (nbits w : Nat) : (s.place nbits w).out = s.out := rfl
@[simp] theorem State.place_reads (s : State) (nbits w : Nat) : (s.place nbits w).reads = s.reads := rfl
@[simp] theorem State.place_script (s : State) (nbits w : Nat) : (s.place nbits w).script = tableOctets nbits w ++ s.script := rfl

@[simp] theorem State.giveRead_config {α : Type} (s : State) (x : Access α) (f : α → Value) : (s.giveRead x f).config = s.config := rfl
@[simp] theorem State.giveRead_phase {α : Type} (s : State) (x : Access α) (f : α → Value) : (s.giveRead x f).phase = s.phase := rfl
@[simp] theorem State.giveRead_reqLen {α : Type} (s : State) (x : Access α) (f : α → Value) : (s.giveRead x f).reqLen = s.reqLen := rfl
@[simp] theorem State.giveRead_rsp {α : Type} (s : State) (x : Access α) (f : α → Value) : (s.giveRead x f).rsp = s.rsp := rfl
@[simp] theorem State.giveRead_fb {α : Type} (s : State) (x : Access α) (f : α → Value) : (s.giveRead x f).fb = s.fb := rfl
@[simp] theorem State.giveRead_fbEpoch {α : Type} (s : State) (x : Access α) (f : α → Value) : (s.giveRead x f).fbEpoch = s.fbEpoch := rfl
@[simp] theorem State.giveRead_draws {α : Type} (s : State) (x : Access α) (f : α → Value) : (s.giveRead x f).draws = s.draws := rfl
@[simp] theorem State.giveRead_handle {α : Type} (s : State) (x : Access α) (f : α → Value) : (s.giveRead x f).handle = s.handle := rfl
@[simp] theorem State.giveRead_answers {α : Type} (s : State) (x : Access α) (f : α → Value) : (s.giveRead x f).answers = s.answers := rfl
@[simp] theorem State.giveRead_polls {α : Type} (s : State) (x : Access α) (f : α → Value) : (s.giveRead x f).polls = s.polls := rfl
@[simp] theorem State.giveRead_cancelFlag {α : Type} (s : State) (x : Access α) (f : α → Value) : (s.giveRead x f).cancelFlag = s.cancelFlag := rfl
@[simp] theorem State.giveRead_pos {α : Type} (s : State) (x : Access α) (f : α → Value) : (s.giveRead x f).pos = s.pos := rfl
@[simp] theorem State.giveRead_lines {α : Type} (s : State) (x : Access α) (f : α → Value) : (s.giveRead x f).lines = s.lines := rfl
@[simp] theorem State.giveRead_out {α : Type} (s : State) (x : Access α) (f : α → Value) : (s.giveRead x f).out = some (f x.value) := rfl
@[simp] theorem State.giveRead_reads {α : Type} (s : State) (x : Access α) (f : α → Value) : (s.giveRead x f).reads = x.reads := rfl
@[simp] theorem State.giveRead_script {α : Type} (s : State) (x : Access α) (f : α → Value) : (s.giveRead x f).script = s.script := rfl

@[simp] theorem State.giveFreeRecord_config (s : State) (h : Header) : (s.giveFreeRecord h).config = s.config := rfl
@[simp] theorem State.giveFreeRecord_phase (s : State) (h : Header) : (s.giveFreeRecord h).phase = s.phase := rfl
@[simp] theorem State.giveFreeRecord_reqLen (s : State) (h : Header) : (s.giveFreeRecord h).reqLen = s.reqLen := rfl
@[simp] theorem State.giveFreeRecord_rsp (s : State) (h : Header) : (s.giveFreeRecord h).rsp = s.rsp := rfl
@[simp] theorem State.giveFreeRecord_fb (s : State) (h : Header) : (s.giveFreeRecord h).fb = s.fb := rfl
@[simp] theorem State.giveFreeRecord_fbEpoch (s : State) (h : Header) : (s.giveFreeRecord h).fbEpoch = s.fbEpoch := rfl
@[simp] theorem State.giveFreeRecord_draws (s : State) (h : Header) : (s.giveFreeRecord h).draws = s.draws + 1 := rfl
@[simp] theorem State.giveFreeRecord_handle (s : State) (h : Header) : (s.giveFreeRecord h).handle = s.handle := rfl
@[simp] theorem State.giveFreeRecord_answers (s : State) (h : Header) : (s.giveFreeRecord h).answers = s.answers := rfl
@[simp] theorem State.giveFreeRecord_polls (s : State) (h : Header) : (s.giveFreeRecord h).polls = s.polls := rfl
@[simp] theorem State.giveFreeRecord_cancelFlag (s : State) (h : Header) : (s.giveFreeRecord h).cancelFlag = s.cancelFlag := rfl
@[simp] theorem State.giveFreeRecord_pos (s : State) (h : Header) : (s.giveFreeRecord h).pos = s.pos := rfl
@[simp] theorem State.giveFreeRecord_lines (s : State) (h : Header) : (s.giveFreeRecord h).lines = s.lines := rfl
@[simp] theorem State.giveFreeRecord_out (s : State) (h : Header) : (s.giveFreeRecord h).out = some (.record (recordOf s.freeRecordLen h)) := rfl
@[simp] theorem State.giveFreeRecord_reads (s : State) (h : Header) : (s.giveFreeRecord h).reads = [] := rfl
@[simp] theorem State.giveFreeRecord_script (s : State) (h : Header) : (s.giveFreeRecord h).script = s.script := rfl

@[simp] theorem State.drawn_config (s : State) : s.drawn.config = s.config := rfl
@[simp] theorem State.drawn_phase (s : State) : s.drawn.phase = s.phase := rfl
@[simp] theorem State.drawn_reqLen (s : State) : s.drawn.reqLen = s.reqLen := rfl
@[simp] theorem State.drawn_rsp (s : State) : s.drawn.rsp = s.rsp := rfl
@[simp] theorem State.drawn_fb (s : State) : s.drawn.fb = s.fb := rfl
@[simp] theorem State.drawn_fbEpoch (s : State) : s.drawn.fbEpoch = s.fbEpoch := rfl
@[simp] theorem State.drawn_draws (s : State) : s.drawn.draws = s.draws := rfl
@[simp] theorem State.drawn_handle (s : State) : s.drawn.handle = s.handle := rfl
@[simp] theorem State.drawn_cancelFlag (s : State) : s.drawn.cancelFlag = s.cancelFlag := rfl
@[simp] theorem State.drawn_pos (s : State) : s.drawn.pos = s.pos := rfl
@[simp] theorem State.drawn_lines (s : State) : s.drawn.lines = s.lines := rfl
@[simp] theorem State.drawn_out (s : State) : s.drawn.out = s.out := rfl
@[simp] theorem State.drawn_reads (s : State) : s.drawn.reads = s.reads := rfl
@[simp] theorem State.drawn_script (s : State) : s.drawn.script = s.script := rfl
@[simp] theorem State.drawn_answers (s : State) : s.drawn.answers = s.answers.tail := rfl
@[simp] theorem State.drawn_polls (s : State) : s.drawn.polls = if s.answers = [] then s.polls + 1 else s.polls := rfl

/-! What the next answer and the buffer's octets are does not depend on what was handed over. -/

@[simp] theorem State.fresh_answer (s : State) : s.fresh.answer = s.answer := rfl
@[simp] theorem State.fresh_fbOctet (s : State) : s.fresh.fbOctet = s.fbOctet := rfl
@[simp] theorem State.drawn_fbOctet (s : State) : s.drawn.fbOctet = s.fbOctet := rfl

end Sys2Proof.Machine
end

