-- ==== Sys2Proof/Laws/Header.lean ====
section
/-! SUPPORT. What the conversion, the field extractors and DECODE answer, and which offsets they read. -/

namespace Sys2Proof.Machine

/-- NTOH16 is the concatenation of its octets, the first received on top (40_decode R83). -/
theorem ntoh16_eq_append (a b : Octet) : ntoh16 a b = a ++ b := by
  apply BitVec.eq_of_toNat_eq
  simp only [ntoh16, BitVec.toNat_or, BitVec.toNat_shiftLeft, BitVec.toNat_setWidth, BitVec.toNat_append]
  have ha := a.isLt
  have hb := b.isLt
  rw [Nat.mod_eq_of_lt (a := a.toNat) (by omega), Nat.mod_eq_of_lt (a := b.toNat) (by omega), Nat.mod_eq_of_lt]
  rw [Nat.shiftLeft_eq]; omega

/-- The upper octet of two octets put together. -/
theorem append_upper (a b : Octet) : (a ++ b).extractLsb' 8 8 = a := by
  apply BitVec.eq_of_getLsbD_eq
  intro i hi
  simp only [BitVec.getLsbD_append, BitVec.getLsbD_extractLsb']
  interval_cases i <;> simp

/-- The lower octet of two octets put together. -/
theorem append_lower (a b : Octet) : (a ++ b).extractLsb' 0 8 = b := by
  apply BitVec.eq_of_getLsbD_eq
  intro i hi
  simp only [BitVec.getLsbD_append, BitVec.getLsbD_extractLsb']
  interval_cases i <;> simp

/-- A word is its upper octet and its lower octet put together. -/
theorem upper_append_lower (v : U16) : v.extractLsb' 8 8 ++ v.extractLsb' 0 8 = v := by
  apply BitVec.eq_of_getLsbD_eq
  intro i hi
  simp only [BitVec.getLsbD_append, BitVec.getLsbD_extractLsb']
  interval_cases i <;> simp

/-- The number two octets put together encode (40_decode R92). -/
theorem append_toNat (a b : Octet) : (a ++ b).toNat = 256 * a.toNat + b.toNat := by
  rw [BitVec.toNat_append, ← Nat.shiftLeft_add_eq_or_of_lt b.isLt, Nat.shiftLeft_eq]
  omega

/-- BE16 is NTOH16 (40_decode R85). -/
theorem be16_eq_ntoh16 (a b : Octet) : be16 a b = ntoh16 a b := rfl

/-- LE16 takes the octets the other way round (40_decode R85). -/
theorem le16_eq_append (a b : Octet) : le16 a b = b ++ a := ntoh16_eq_append b a

/-- SWAP16 exchanges the two octets (40_decode R84). -/
theorem swap16_eq_append (x : U16) : swap16 x = x.extractLsb' 0 8 ++ x.extractLsb' 8 8 := by
  apply BitVec.eq_of_getLsbD_eq
  intro i hi
  simp only [swap16, BitVec.getLsbD_or, BitVec.getLsbD_shiftLeft, BitVec.getLsbD_and, BitVec.getLsbD_ushiftRight,
    BitVec.getLsbD_append, BitVec.getLsbD_extractLsb']
  interval_cases i <;> simp

/-- The octets read of a window, one after the other. -/
theorem addrAt_eq (W : Window) (off : Nat) :
    addrAt W off =
      ⟨⟨W.octet off, W.octet (off + 1), W.octet (off + 2), W.octet (off + 3), W.octet (off + 4), W.octet (off + 5)⟩,
       [off, off + 1, off + 2, off + 3, off + 4, off + 5]⟩ := rfl

/-- GET_TYPE reads offsets 12 and 13. -/
theorem typeOf_eq (W : Window) : typeOf W = ⟨W.octet 12 ++ W.octet 13, [12, 13]⟩ := by
  simp only [typeOf, Access.bind, memRead, Access.pure, Config.typeOff, ntoh16_eq_append]
  rfl

/-- DECODE of a window of 14 octets or more: the header of its octets 0 to 13, each read once (40_decode R87, R88). -/
theorem decodeWindow_long {W : Window} (h : 14 ≤ W.len) :
    decodeWindow W =
      ⟨.ok ⟨⟨W.octet 0, W.octet 1, W.octet 2, W.octet 3, W.octet 4, W.octet 5⟩,
            ⟨W.octet 6, W.octet 7, W.octet 8, W.octet 9, W.octet 10, W.octet 11⟩, W.octet 12 ++ W.octet 13⟩,
       List.range 14⟩ := by
  have hl : lenOk W.len = true := by simp only [lenOk, Config.hdrLen]; exact decide_eq_true h
  simp only [decodeWindow, hl, if_true, dstOf, srcOf, addrAt_eq, typeOf_eq, Access.bind, Access.pure, Config.dstOff,
    Config.srcOff]
  rfl

/-- DECODE of a shorter window: `TruncatedFrame`, and no octet read (40_decode R87, R88). -/
theorem decodeWindow_short {W : Window} (h : W.len < 14) : decodeWindow W = ⟨.truncated, []⟩ := by
  have hl : lenOk W.len = false := by simp only [lenOk, Config.hdrLen]; exact decide_eq_false (by omega)
  simp [decodeWindow, hl, Access.pure]

/-- The block's response to a request, and what it reads for it (40_decode R90). -/
theorem State.respond_eq (s : State) (n : Nat) :
    s.respond n = if 14 ≤ n then ⟨.ok (recordFrom s.fbOctet n), List.range 14⟩ else ⟨.truncated, []⟩ := by
  split_ifs with h
  · have hw : 14 ≤ (s.fbWindow n).len := h
    rw [State.respond, decodeWindow_long hw]
    rfl
  · have hw : (s.fbWindow n).len < 14 := Nat.lt_of_not_le h
    rw [State.respond, decodeWindow_short hw]
    rfl

/-- The response depends on the buffer through the header octets only (10_state R24). -/
theorem State.respond_congr {s t : State} (h : SameHeaderOctets s t) (n : Nat) : s.respond n = t.respond n := by
  have e : recordFrom s.fbOctet n = recordFrom t.fbOctet n := by
    simp only [recordFrom, h 0 (by omega), h 1 (by omega), h 2 (by omega), h 3 (by omega), h 4 (by omega), h 5 (by omega),
      h 6 (by omega), h 7 (by omega), h 8 (by omega), h 9 (by omega), h 10 (by omega), h 11 (by omega), h 12 (by omega),
      h 13 (by omega)]
  rw [State.respond_eq, State.respond_eq, e]

/-- Octet `k` of a header vector is one of its fourteen octets (30_encoding R61). -/
theorem hdr_eq_append (h : Hdr) :
    h = hdrOctet h 0 ++ hdrOctet h 1 ++ hdrOctet h 2 ++ hdrOctet h 3 ++ hdrOctet h 4 ++ hdrOctet h 5 ++ hdrOctet h 6 ++
      hdrOctet h 7 ++ hdrOctet h 8 ++ hdrOctet h 9 ++ hdrOctet h 10 ++ hdrOctet h 11 ++ hdrOctet h 12 ++ hdrOctet h 13 := by
  apply BitVec.eq_of_getLsbD_eq
  intro i hi
  simp only [hdrOctet, BitVec.getLsbD_append, BitVec.getLsbD_extractLsb']
  interval_cases i <;> simp

/-- The octets of a vector made of fourteen octets are those octets. -/
theorem hdrOctet_append (w0 w1 w2 w3 w4 w5 w6 w7 w8 w9 w10 w11 w12 w13 : Octet) (h : Hdr)
    (e : h = w0 ++ w1 ++ w2 ++ w3 ++ w4 ++ w5 ++ w6 ++ w7 ++ w8 ++ w9 ++ w10 ++ w11 ++ w12 ++ w13) :
    hdrOctet h 0 = w0 ∧ hdrOctet h 1 = w1 ∧ hdrOctet h 2 = w2 ∧ hdrOctet h 3 = w3 ∧ hdrOctet h 4 = w4 ∧
    hdrOctet h 5 = w5 ∧ hdrOctet h 6 = w6 ∧ hdrOctet h 7 = w7 ∧ hdrOctet h 8 = w8 ∧ hdrOctet h 9 = w9 ∧
    hdrOctet h 10 = w10 ∧ hdrOctet h 11 = w11 ∧ hdrOctet h 12 = w12 ∧ hdrOctet h 13 = w13 := by
  subst e
  refine ⟨?_, ?_, ?_, ?_, ?_, ?_, ?_, ?_, ?_, ?_, ?_, ?_, ?_, ?_⟩ <;>
  · apply BitVec.eq_of_getLsbD_eq
    intro i hi
    simp only [hdrOctet, BitVec.getLsbD_append, BitVec.getLsbD_extractLsb']
    interval_cases i <;> simp

/-- The low 16 bits of a header vector are its last two octets (30_encoding R61, R71). -/
theorem hdr_type (h : Hdr) : hdrOctet h 12 ++ hdrOctet h 13 = h.extractLsb' 0 16 := by
  apply BitVec.eq_of_getLsbD_eq
  intro i hi
  simp only [hdrOctet, BitVec.getLsbD_append, BitVec.getLsbD_extractLsb']
  interval_cases i <;> simp

end Sys2Proof.Machine
end

