-- ==== Sys2Proof/Laws/Encoding.lean ====
section
/-! SUPPORT. Each operand reader undoes its writer and leaves the octets after it. -/

namespace Sys2Proof

open Machine

/-- The octets of a number read back as its low octets, over what was read before. -/
theorem readNat_octetsOf (k v n : Nat) (rest : List Octet) :
    readNat k v (octetsOf k n ++ rest) = .ok (256 ^ k * v + n % 256 ^ k, rest) := by
  induction k generalizing v with
  | zero => simp [readNat, octetsOf, Nat.mod_one]
  | succ k ih =>
    rw [octetsOf, List.cons_append, readNat, ih, Nat.mod_pow_succ, BitVec.toNat_ofNat, Nat.shiftRight_eq_div_pow, Nat.pow_mul]
    congr 2
    ring

/-- A number that `k` octets hold reads back as itself. -/
theorem readNat_of_lt {k n : Nat} (h : n < 256 ^ k) (rest : List Octet) :
    readNat k 0 (octetsOf k n ++ rest) = .ok (n, rest) := by
  rw [readNat_octetsOf, Nat.mod_eq_of_lt h, Nat.mul_zero, Nat.zero_add]

/-- What `readNat` accepts are the octets of the number it gives. -/
theorem readNat_inv {k v m : Nat} {bs rest : List Octet} (h : readNat k v bs = .ok (m, rest)) :
    ∃ n, n < 256 ^ k ∧ m = 256 ^ k * v + n ∧ bs = octetsOf k n ++ rest := by
  induction k generalizing v bs with
  | zero => cases h; exact ⟨0, by simp, by simp, rfl⟩
  | succ k ih =>
    cases bs with
    | nil => cases h
    | cons b bs =>
      obtain ⟨n, hn, hm, rfl⟩ := ih h
      have hb := b.isLt
      have hp : 0 < 256 ^ k := Nat.pow_pos (by omega)
      refine ⟨256 ^ k * b.toNat + n, ?_, by rw [hm]; ring, ?_⟩
      · rw [Nat.pow_succ]
        have := Nat.mul_le_mul_left (256 ^ k) (show b.toNat + 1 ≤ 256 by omega)
        rw [Nat.mul_add] at this
        omega
      · have e1 : (256 ^ k * b.toNat + n) / 256 ^ k = b.toNat := by
          rw [Nat.mul_add_div hp, Nat.div_eq_of_lt hn, Nat.add_zero]
        have e2 : ∀ (j : Nat) (x : Nat), j ≤ k → octetsOf j (256 ^ k * x + n) = octetsOf j n := by
          intro j x hj
          induction j with
          | zero => rfl
          | succ j ihj =>
            rw [octetsOf, octetsOf, ihj (by omega)]
            congr 1
            apply BitVec.eq_of_toNat_eq
            rw [BitVec.toNat_ofNat, BitVec.toNat_ofNat, Nat.shiftRight_eq_div_pow, Nat.shiftRight_eq_div_pow, Nat.pow_mul]
            obtain ⟨d, rfl⟩ : ∃ d, k = j + 1 + d := ⟨k - (j + 1), by omega⟩
            have e : 256 ^ (j + 1 + d) * x + n = 256 ^ j * (256 * (256 ^ d * x)) + n := by ring
            rw [show (2 : Nat) ^ 8 = 256 from rfl, e, Nat.mul_add_div (Nat.pow_pos (by omega)), Nat.mul_add_mod]
        rw [octetsOf, Nat.shiftRight_eq_div_pow, Nat.pow_mul, show (2 : Nat) ^ 8 = 256 from rfl, e1, e2 k _ (le_refl k)]
        simp

/-- A length's octets read back as that length. -/
theorem readLen_writeLen {c : Config} {n : Nat} (h : n < 2 ^ c.lenWidth) (rest : List Octet) :
    readLen c (writeLen c n ++ rest) = .ok (n, rest) := by
  simp only [readLen, writeLen, readNat_of_lt (lt_of_lt_of_le h c.lenOctets_hold), h, if_true]

/-- What `readLen` accepts are the octets of a length of `LEN_W` bits. -/
theorem readLen_inv {c : Config} {n : Nat} {bs rest : List Octet} (h : readLen c bs = .ok (n, rest)) :
    n < 2 ^ c.lenWidth ∧ bs = writeLen c n ++ rest := by
  unfold readLen at h
  split at h
  · cases h
  next m r hr =>
    split_ifs at h with hlt
    cases h
    obtain ⟨k, -, hk, hbs⟩ := readNat_inv hr
    rw [Nat.mul_zero, Nat.zero_add] at hk
    exact ⟨hlt, by rw [hk, writeLen]; exact hbs⟩

/-- A word's two octets read back as that word. -/
theorem readU16_writeU16 (v : U16) (rest : List Octet) : readU16 (writeU16 v ++ rest) = .ok (v, rest) := by
  simp only [writeU16, List.cons_append, List.nil_append, readU16, upper_append_lower]

/-- An address's six octets read back as that address. -/
theorem readAddr_writeAddr (a : Addr) (rest : List Octet) : readAddr (writeAddr a ++ rest) = .ok (a, rest) := rfl

/-- A header vector's fourteen octets read back as that vector. -/
theorem readHdr_writeHdr (h : Hdr) (rest : List Octet) : readHdr (writeHdr h ++ rest) = .ok (h, rest) := by
  have e := hdr_eq_append h
  simp only [hdrOctet] at e
  simp only [writeHdr, List.cons_append, List.nil_append, readHdr]
  exact congrArg (fun x => Except.ok (x, rest)) e.symm

/-- Reading one operand after another. -/
theorem readBoth_of {α β : Type} {p : List Octet → Reading α} {q : List Octet → Reading β} {bs mid rest : List Octet}
    {a : α} {b : β} (hp : p bs = .ok (a, mid)) (hq : q mid = .ok (b, rest)) :
    readBoth p q bs = .ok ((a, b), rest) := by
  simp only [readBoth, hp, hq]

/-- A header's octets read back as that header. -/
theorem readHeader_writeHeader (h : Header) (rest : List Octet) : readHeader (writeHeader h ++ rest) = .ok (h, rest) := by
  rw [writeHeader, List.append_assoc, List.append_assoc, readHeader,
    readBoth_of (readAddr_writeAddr h.dst _)
      (readBoth_of (readAddr_writeAddr h.src _) (readU16_writeU16 h.proto rest))]
  rfl

/-- A record's octets read back as that record. -/
theorem readRecord_writeRecord {c : Config} {r : Record} (h : r.len < 2 ^ c.lenWidth) (rest : List Octet) :
    readRecord c (writeRecord c r ++ rest) = .ok (r, rest) := by
  rw [writeRecord, List.append_assoc, readRecord,
    readBoth_of (readLen_writeLen h _) (readHeader_writeHeader ⟨r.dst, r.src, r.proto⟩ rest)]
  rfl

/-! What each selector octet reads. -/

theorem decodeRow_checkLen (c : Config) (bs : List Octet) : decodeRow c 0 bs = Reading.map Instr.checkLen (readLen c bs) := rfl
theorem decodeRow_getDst (c : Config) (bs : List Octet) : decodeRow c 1 bs = Reading.map Instr.getDst (readHdr bs) := rfl
theorem decodeRow_getSrc (c : Config) (bs : List Octet) : decodeRow c 2 bs = Reading.map Instr.getSrc (readHdr bs) := rfl
theorem decodeRow_ntoh16 (c : Config) (bs : List Octet) : decodeRow c 3 bs = Reading.map (fun x => Instr.ntoh16 x.1 x.2) (readOctets2 bs) := rfl
theorem decodeRow_swap16 (c : Config) (bs : List Octet) : decodeRow c 4 bs = Reading.map Instr.swap16 (readU16 bs) := rfl
theorem decodeRow_le16 (c : Config) (bs : List Octet) : decodeRow c 5 bs = Reading.map (fun x => Instr.le16 x.1 x.2) (readOctets2 bs) := rfl
theorem decodeRow_be16 (c : Config) (bs : List Octet) : decodeRow c 6 bs = Reading.map (fun x => Instr.be16 x.1 x.2) (readOctets2 bs) := rfl
theorem decodeRow_getType (c : Config) (bs : List Octet) : decodeRow c 7 bs = Reading.map Instr.getType (readHdr bs) := rfl
theorem decodeRow_decode (c : Config) (bs : List Octet) : decodeRow c 8 bs = Reading.map (fun x => Instr.decode x.1 x.2) (readBoth (readLen c) readHdr bs) := rfl
theorem decodeRow_parse (c : Config) (bs : List Octet) : decodeRow c 9 bs = Reading.map Instr.parse (readLen c bs) := rfl
theorem decodeRow_response (c : Config) (bs : List Octet) : decodeRow c 10 bs = readResponse c bs := rfl
theorem decodeRow_reset (c : Config) (bs : List Octet) : decodeRow c 12 bs = .ok (.reset, bs) := rfl
theorem decodeRow_acquire (c : Config) (bs : List Octet) : decodeRow c 13 bs = .ok (.acquire, bs) := rfl
theorem decodeRow_loopIter (c : Config) (bs : List Octet) : decodeRow c 14 bs = .ok (.loopIter, bs) := rfl
theorem decodeRow_cancel (c : Config) (bs : List Octet) : decodeRow c 15 bs = .ok (.cancel, bs) := rfl
theorem decodeRow_makeRecord (c : Config) (bs : List Octet) : decodeRow c 16 bs = Reading.map (fun x => Instr.makeRecord x.1 x.2) (readBoth (readLen c) readHeader bs) := rfl
theorem decodeRow_hex2 (c : Config) (bs : List Octet) : decodeRow c 17 bs = Reading.map Instr.hex2 (readOctet bs) := rfl
theorem decodeRow_hex4 (c : Config) (bs : List Octet) : decodeRow c 18 bs = Reading.map Instr.hex4 (readU16 bs) := rfl
theorem decodeRow_addr (c : Config) (bs : List Octet) : decodeRow c 19 bs = Reading.map Instr.addr (readAddr bs) := rfl
theorem decodeRow_dec (c : Config) (bs : List Octet) : decodeRow c 20 bs = Reading.map Instr.dec (readLen c bs) := rfl
theorem decodeRow_renderLine (c : Config) (bs : List Octet) : decodeRow c 21 bs = Reading.map Instr.renderLine (readRecord c bs) := rfl

end Sys2Proof
end

