-- ==== Sys2Proof/Laws/Memory.lean ====
section
/-! SUPPORT. The FrameBuffer: a read after a write, and every operation keeps the canonical form. -/

namespace Sys2Proof.Machine

/-- Reading after one write: the octet written there, every other offset as before. -/
theorem Memory.read?_write (m : Memory) (a : Nat) (v : Octet) (b : Nat) :
    (m.write a v).read? b = if b = a then some v else m.read? b := by
  induction m with
  | nil => simp [Memory.write, Memory.read?, eq_comm]
  | cons c m ih =>
    simp only [Memory.write]
    split_ifs with h1 h2 h3 <;> simp_all [Memory.read?, eq_comm]

/-- Reading after a frame's octets were written from offset `i` on. -/
theorem Memory.read?_writeFrom (os : List Octet) (m : Memory) (i b : Nat) :
    (m.writeFrom i os).read? b = if i ≤ b ∧ b < i + os.length then os[b - i]? else m.read? b := by
  induction os generalizing i with
  | nil => simp only [Memory.writeFrom, List.length_nil]; split_ifs <;> first | rfl | omega
  | cons o os ih =>
    rw [Memory.writeFrom, Memory.read?_write, ih]
    by_cases hb : b = i
    · subst hb; simp
    · by_cases h : i + 1 ≤ b ∧ b < i + 1 + os.length
      · have hi : b - i = (b - (i + 1)) + 1 := by omega
        simp only [hb, h, List.length_cons, hi, List.getElem?_cons_succ]
        have : i ≤ b ∧ b < i + (os.length + 1) := by omega
        simp [this]
      · have : ¬ (i ≤ b ∧ b < i + (os.length + 1)) := by omega
        rw [if_neg h, if_neg hb, List.length_cons, if_neg this]

/-- The offsets a write leaves listed. -/
theorem Memory.mem_write {m : Memory} {a : Nat} {v : Octet} {c : Host.Cell} (h : c ∈ m.write a v) :
    c = (a, v) ∨ c ∈ m := by
  induction m with
  | nil => simpa [Memory.write] using h
  | cons d m ih =>
    simp only [Memory.write] at h
    split_ifs at h <;> simp only [List.mem_cons] at h ⊢
    · exact h
    · tauto
    · rcases h with h | h
      · tauto
      · rcases ih h with h | h <;> tauto

/-- A write inside the FrameBuffer keeps the canonical form. -/
theorem Memory.wf_write {c : Config} {m : Memory} (hm : m.wf c) {a : Nat} (ha : a < c.capacity) (v : Octet) :
    (m.write a v).wf c := by
  refine ⟨?_, fun x hx => ?_⟩
  · have hp := hm.1
    clear hm
    induction m with
    | nil => simp [Memory.write]
    | cons d m ih =>
      rw [List.pairwise_cons] at hp
      simp only [Memory.write]
      split_ifs with h1 h2
      · refine List.pairwise_cons.2 ⟨fun e he => ?_, List.pairwise_cons.2 hp⟩
        rcases List.mem_cons.1 he with rfl | he
        · exact h1
        · exact h1.trans (hp.1 e he)
      · exact List.pairwise_cons.2 ⟨fun e he => by simpa [h2] using hp.1 e he, hp.2⟩
      · refine List.pairwise_cons.2 ⟨fun e he => ?_, ih hp.2⟩
        rcases Memory.mem_write he with rfl | he
        · simp only; omega
        · exact hp.1 e he
  · rcases Memory.mem_write hx with rfl | hx
    · exact ha
    · exact hm.2 x hx

/-- Writing a frame that ends inside the FrameBuffer keeps the canonical form. -/
theorem Memory.wf_writeFrom {c : Config} {m : Memory} (hm : m.wf c) (os : List Octet) (i : Nat)
    (h : i + os.length ≤ c.capacity) : (m.writeFrom i os).wf c := by
  induction os generalizing i with
  | nil => exact hm
  | cons o os ih =>
    rw [List.length_cons] at h
    exact Memory.wf_write (ih (i + 1) (by omega)) (by omega) o

/-- The reset memory has the canonical form. -/
theorem Memory.wf_nil (c : Config) : Memory.wf c [] := ⟨List.Pairwise.nil, by simp⟩

/-- In a canonical memory a listed cell is what is read at its offset. -/
theorem Memory.read?_eq_some_iff {c : Config} {m : Memory} (hm : m.wf c) (a : Nat) (v : Octet) :
    m.read? a = some v ↔ (a, v) ∈ m := by
  have hp := hm.1
  clear hm
  induction m with
  | nil => simp [Memory.read?]
  | cons c m ih =>
    obtain ⟨x, y⟩ := c
    rw [List.pairwise_cons] at hp
    simp only [Memory.read?, List.mem_cons, Prod.mk.injEq]
    split_ifs with h
    · subst h
      refine ⟨fun hv => .inl ⟨rfl, (Option.some.inj hv).symm⟩, ?_⟩
      rintro (⟨-, hv⟩ | hv)
      · rw [hv]
      · exact absurd (hp.1 _ hv) (Nat.lt_irrefl _)
    · exact (ih hp.2).trans ⟨.inr, fun hv => hv.resolve_left fun e => h e.1.symm⟩

/-- The octets of the FrameBuffer after a successful acquisition: the frame's at its offsets, the others as before
(20_memory R45, R46). -/
theorem State.fbOctet_acqOk (s : State) (os : List Octet) (a : Nat) :
    (s.acqOk os).fbOctet a = if a < os.length then os.getD a 0 else s.fbOctet a := by
  simp only [State.fbOctet, State.acqOk_fb, State.acqOk_fbEpoch, Memory.read?_writeFrom, Nat.zero_le, true_and, Nat.zero_add,
    Nat.sub_zero]
  split_ifs with h <;> simp [h]

end Sys2Proof.Machine
end

