-- ==== Sys2Proof/Laws/Ops.lean ====
section
/-! SUPPORT. For each shared operation, once, everything it can do; later proofs cite these and do not unfold it. -/

namespace Sys2Proof.Machine

/-- A frame is carried by a report without error only. -/
theorem Report.frame_eq_some {r : Report} {os : List Octet} (h : r.frame = some os) : r = .returned os false := by
  cases r with
  | returned os' e => cases e <;> simp_all [Report.frame]
  | negative k => simp [Report.frame] at h
  | sourceClosed => simp [Report.frame] at h

/-- A report without a frame. -/
theorem Report.frame_eq_none {r : Report} (h : r.frame = none) (os : List Octet) : r ≠ .returned os false := by
  rintro rfl; cases h

/-- What a call of the Frame Source can answer: the error of a closed source, no answer yet, the error of a report, or a
frame. -/
theorem State.callSource_cases {s t : State} (h : s.callSource = .next t) :
    (s.handle = .closed ∧ t = s.acqFailed) ∨
    (s.handle ≠ .closed ∧
      ((s.answer = none ∧ t = { s.drawn with pos := .blocked }) ∨
       (∃ r, s.answer = some r ∧ (∀ os, r ≠ .returned os false) ∧
          t = State.acqFailed { s.drawn with handle := r.handleAfter s.handle }) ∨
       (∃ os, s.answer = some (.returned os false) ∧ os.length ≤ s.config.capacity ∧ t = s.drawn.acqOk os))) := by
  unfold State.callSource at h
  split at h
  next hc => cases h; exact .inl ⟨hc, rfl⟩
  next hc =>
    refine .inr ⟨hc, ?_⟩
    split at h
    next he => cases h; exact .inl ⟨he, rfl⟩
    next r he =>
      split at h
      next hf => cases h; exact .inr (.inl ⟨r, he, Report.frame_eq_none hf, rfl⟩)
      next os hf =>
        split at h
        next hl => cases h; exact .inr (.inr ⟨os, by rw [he, Report.frame_eq_some hf], hl, rfl⟩)
        next => cases h

/-- A placed answer is the next one. -/
theorem State.answer_cons {s : State} {a : Answer} {as : List Answer} (h : s.answers = a :: as) : s.answer = a := by
  simp [State.answer, h]

/-- A frame that the oracle itself gives fits the FrameBuffer (41_environment R101). -/
theorem State.answer_fits {s : State} {os : List Octet} {e : Bool} (h : s.answers = []) (ha : s.answer = some (.returned os e)) :
    os.length ≤ s.config.capacity := by
  simp only [State.answer, h] at ha
  unfold Answer.within at ha
  split at ha <;> simp at ha
  rw [← ha.1]
  simp

/-- No report makes a source one that could not be initialised. -/
theorem Report.handleAfter_ne_unavailable (r : Report) {h : Handle} (hh : h ≠ .unavailable) :
    r.handleAfter h ≠ .unavailable := by
  cases r <;> simp [Report.handleAfter, hh]

/-- The call of an opened source that has a frame ready. -/
theorem State.callSource_frame {s : State} {os : List Octet} (ho : s.handle ≠ .closed)
    (ha : s.answer = some (.returned os false)) (hl : os.length ≤ s.config.capacity) :
    s.callSource = .next (s.drawn.acqOk os) := by
  simp [State.callSource, ho, ha, Report.frame, hl]

/-- The call of an opened source whose next report is an error. -/
theorem State.callSource_error {s : State} {r : Report} (ho : s.handle ≠ .closed) (ha : s.answer = some r)
    (hf : r.frame = none) :
    s.callSource = .next (State.acqFailed { s.drawn with handle := r.handleAfter s.handle }) := by
  simp [State.callSource, ho, ha, hf]

/-- What step 1 of the loop can do when it goes on. -/
theorem State.acquireStep_cases {s t : State} (h : s.acquireStep = .next t) :
    ((∃ why, s.pos = .stopped why) ∧ t = s.fresh) ∨
    ((∀ why, s.pos ≠ .stopped why) ∧
      ((s.handle = .unavailable ∧ t = s.fresh.stop .sourceUnavailable) ∨
       (s.handle ≠ .unavailable ∧ s.phase = .idle ∧
         ((s.pos.midIteration = true ∧ t = s) ∨
          (s.pos.midIteration = false ∧
            ((s.cancelFlag = true ∧ t = s.fresh.stop .cancelled) ∨ s.fresh.callSource = .next t)))))) := by
  unfold State.acquireStep at h
  split at h
  next why hp => cases h; exact .inl ⟨⟨why, hp⟩, rfl⟩
  next hp =>
    refine .inr ⟨fun why e => hp why e, ?_⟩
    split at h
    next hu => cases h; exact .inl ⟨hu, rfl⟩
    next hu =>
      cases hph : s.phase with
      | busy => simp [hph] at h
      | idle =>
        refine .inr ⟨hu, rfl, ?_⟩
        simp only [hph, reduceCtorEq, if_false] at h
        cases hm : s.pos.midIteration with
        | true => simp only [hm, if_true] at h; cases h; exact .inl ⟨rfl, rfl⟩
        | false =>
          simp only [hm, Bool.false_eq_true, if_false] at h
          refine .inr ⟨rfl, ?_⟩
          split at h
          next => exact .inr h
          next =>
            split at h
            next hc => cases h; exact .inl ⟨hc, rfl⟩
            next => exact .inr h

/-- A loop that has stopped calls nothing. -/
theorem State.acquireStep_stopped {s : State} {why : StopReason} (h : s.pos = .stopped why) :
    s.acquireStep = .next s.fresh := by
  simp [State.acquireStep, h]

/-- A source that could not be initialised comes before everything else. -/
theorem State.acquireStep_unavailable {s : State} (h : s.handle = .unavailable) (hp : ∀ why, s.pos ≠ .stopped why) :
    s.acquireStep = .next (s.fresh.stop .sourceUnavailable) := by
  unfold State.acquireStep
  split
  next why e => exact absurd e (hp why)
  next => simp [h]

/-- A call while a PARSE is open is the race. -/
theorem State.acquireStep_busy {s : State} (hh : s.handle ≠ .unavailable) (h : s.phase = .busy)
    (hp : ∀ why, s.pos ≠ .stopped why) : s.acquireStep = .fault .bufferRace := by
  unfold State.acquireStep
  split
  next why e => exact absurd e (hp why)
  next => simp [h, hh]

/-- Where the call goes ahead, step 1 is the call. -/
theorem State.acquireStep_call {s : State} (h : s.MayAcquire) : s.acquireStep = s.fresh.callSource := by
  obtain ⟨hi, ho, hb | ⟨h1, hc⟩⟩ := h
  · simp [State.acquireStep, hi, ho, hb, LoopPos.midIteration]
  · simp [State.acquireStep, hi, ho, h1, hc, LoopPos.midIteration]

/-- A call of the source does not fault. -/
theorem State.callSource_no_fault (s : State) (f : Fault) : s.callSource ≠ .fault f := by
  intro h
  unfold State.callSource at h
  repeat' split at h
  all_goals cases h

/-- The only fault of step 1. -/
theorem State.acquireStep_fault {s : State} {f : Fault} (h : s.acquireStep = .fault f) : s.phase = .busy := by
  by_contra hb
  unfold State.acquireStep at h
  repeat' split at h
  all_goals first | exact absurd h (State.callSource_no_fault _ f) | cases h

/-- A running loop is one that has not stopped. -/
theorem LoopPos.running_iff (p : LoopPos) : p.running = true ↔ ∀ why, p ≠ .stopped why := by
  cases p <;> simp [LoopPos.running]

/-- A request of the current frame's length puts the loop in step 3; another leaves it where it is. -/
theorem LoopPos.onRequest_cases (n : Nat) (p : LoopPos) :
    (p = .step2 (.ok n) ∧ p.onRequest n = .step3 n) ∨ (p ≠ .step2 (.ok n) ∧ p.onRequest n = p) := by
  cases p with
  | step2 a =>
    cases a with
    | failed => exact .inr ⟨by simp, rfl⟩
    | ok m =>
      by_cases h : m = n
      · subst h; exact .inl ⟨rfl, by simp [LoopPos.onRequest]⟩
      · exact .inr ⟨by simpa using h, by simp [LoopPos.onRequest, h]⟩
  | _ => exact .inr ⟨by simp, rfl⟩

/-- In step 3 of the current frame the loop stays there when it offers its request. -/
@[simp] theorem LoopPos.onRequest_step3 (n m : Nat) : LoopPos.onRequest n (.step3 m) = .step3 m := rfl

/-- The loop's own request, offered from step 2, puts it in step 3. -/
@[simp] theorem LoopPos.onRequest_step2 (n : Nat) : LoopPos.onRequest n (.step2 (.ok n)) = .step3 n := by
  simp [LoopPos.onRequest]

/-- Where the loop goes from step 3 when the response to its request is taken. -/
@[simp] theorem LoopPos.afterResponse_own (n : Nat) (r : Response) :
    LoopPos.afterResponse n r (.step3 n) = (match r with | .ok v => .step4 v | .truncated => .step5) := by
  cases r <;> simp [LoopPos.afterResponse]

/-- Taking the response to the current frame's request ends step 3; another response leaves the loop where it is. -/
theorem LoopPos.afterResponse_cases (n : Nat) (r : Response) (p : LoopPos) :
    (p = .step3 n ∧ ((∃ v, r = .ok v ∧ p.afterResponse n r = .step4 v) ∨
      (r = .truncated ∧ p.afterResponse n r = .step5))) ∨
    (p ≠ .step3 n ∧ p.afterResponse n r = p) := by
  unfold LoopPos.afterResponse
  split
  next h =>
    refine .inl ⟨h, ?_⟩
    cases r with
    | ok v => exact .inl ⟨v, rfl, rfl⟩
    | truncated => exact .inr ⟨rfl, rfl⟩
  next h => exact .inr ⟨h, rfl⟩

/-- The latch's free value has `LEN_W` bits. -/
theorem State.freeLatch_lt (s : State) : s.freeLatch < 2 ^ s.config.lenWidth := Nat.mod_lt _ (Nat.pow_pos (by omega))

/-- A record's free length is at most `CAPACITY`. -/
theorem State.freeRecordLen_le (s : State) : s.freeRecordLen ≤ s.config.capacity := Nat.lt_succ_iff.1 (Nat.mod_lt _ (Nat.succ_pos _))

/-- A whole PARSE of a legal length. -/
theorem State.parseWhole_cases {s t : State} {n : Nat} (h : s.parseWhole n = .next t) :
    n ≤ s.config.capacity ∧ t = (s.accept n).take (s.respond n).value := by
  unfold State.parseWhole at h
  split at h
  next hn => cases h; exact ⟨hn, rfl⟩
  next => cases h

/-- The rest of an iteration: the stop, the frame skipped, or the record's line. -/
theorem State.finishIteration_cases {s t : State} {a : AcqResult} (hp : s.pos = .step2 a)
    (h : s.finishIteration a = .next t) :
    (a = .failed ∧ t = s.stop .acquisitionFailed) ∨
    (∃ n, a = .ok n ∧ n < 14 ∧ t = { (s.accept n).take .truncated with pos := .step1 }) ∨
    (∃ n, a = .ok n ∧ 14 ≤ n ∧ n ≤ s.config.capacity ∧
      t = { ((s.accept n).take (.ok (recordFrom s.fbOctet n))).emitLine (recordFrom s.fbOctet n) with pos := .step1 }) := by
  cases a with
  | failed => cases h; exact .inl ⟨rfl, rfl⟩
  | ok n =>
    simp only [State.finishIteration] at h
    split at h
    next u hu =>
      obtain ⟨hn, rfl⟩ := State.parseWhole_cases hu
      rw [State.respond_eq] at h
      by_cases h14 : 14 ≤ n
      · simp only [h14, if_true, State.take_pos, State.accept_pos, State.accept_reqLen, hp,
          LoopPos.onRequest_step2, LoopPos.afterResponse_own] at h
        cases h
        exact .inr (.inr ⟨n, rfl, h14, hn, rfl⟩)
      · simp only [h14, if_false, State.take_pos, State.accept_pos, State.accept_reqLen, hp,
          LoopPos.onRequest_step2, LoopPos.afterResponse_own] at h
        cases h
        exact .inr (.inl ⟨n, rfl, by omega, rfl⟩)
    next => cases h
    next => cases h

/-- What LOOP_ITER can do when it goes on. -/
theorem execLoopIter_cases {s t : State} (h : execLoopIter s = .next t) :
    (s.handle ≠ .unavailable ∧ s.phase = .idle ∧ s.pos.midIteration = true ∧ t = s) ∨
    ((∀ a, t.pos ≠ .step2 a) ∧ s.acquireStep = .next t) ∨
    (∃ u a, s.handle ≠ .unavailable ∧ s.phase = .idle ∧ s.pos.midIteration = false ∧ s.acquireStep = .next u ∧
      s.fresh.callSource = .next u ∧ u.pos = .step2 a ∧ u.finishIteration a = .next t) := by
  unfold execLoopIter at h
  split at h
  next hm => cases h; exact .inl ⟨hm.1, hm.2.1, by simpa using hm.2.2, rfl⟩
  next hm =>
    split at h
    next u hu =>
      split at h
      next a ha =>
        refine .inr (.inr ⟨u, a, ?_⟩)
        rcases State.acquireStep_cases hu with ⟨⟨why, hw⟩, rfl⟩ | ⟨-, ⟨-, rfl⟩ | ⟨hh, hi, ⟨hmid, -⟩ | ⟨hmid, ⟨-, rfl⟩ | hc⟩⟩⟩
        · rw [State.fresh_pos, hw] at ha; cases ha
        · cases ha
        · exact absurd ⟨hh, hi, hmid⟩ hm
        · cases ha
        · exact ⟨hh, hi, hmid, hu, hc, ha, h⟩
      next hn => cases h; exact .inr (.inl ⟨fun a ha => hn a ha, hu⟩)
    next => cases h
    next => cases h

/-- What the system's own step can do when it goes on. -/
theorem State.advance_cases {s t : State} (h : s.advance = .next t) :
    (s.handle = .unavailable ∧ (∀ why, s.pos ≠ .stopped why) ∧ t = s.fresh.stop .sourceUnavailable) ∨
    (¬ (s.handle = .unavailable ∧ s.pos.running = true) ∧
      ((s.phase = .busy ∧ ((∃ r, s.rsp = some r ∧ t = s.fresh.take r) ∨ (s.rsp = none ∧ t = s.fresh.offer s.reqLen))) ∨
       (s.phase = .idle ∧
        ((s.pos.midIteration = false ∧ s.acquireStep = .next t) ∨
         (s.pos = .step2 .failed ∧ t = s.fresh.stop .acquisitionFailed) ∨
         (∃ n, s.pos = .step2 (.ok n) ∧ t = { s.fresh with pos := .step3 n }) ∨
         (∃ n, s.pos = .step3 n ∧ s.fresh.parseWhole n = .next t) ∨
         (∃ r, s.pos = .step4 r ∧ t = s.fresh.emitLine r) ∨
         (s.pos = .step5 ∧ t = { s.fresh with pos := .step1 }))))) := by
  unfold State.advance at h
  split at h
  next hu => cases h; exact .inl ⟨hu.1, (LoopPos.running_iff _).1 hu.2, rfl⟩
  next hu =>
    refine .inr ⟨hu, ?_⟩
    clear hu
    cases hph : s.phase with
    | busy =>
      simp only [hph] at h
      split at h
      next r hr => cases h; exact .inl ⟨rfl, .inl ⟨r, hr, rfl⟩⟩
      next hr => cases h; exact .inl ⟨rfl, .inr ⟨hr, rfl⟩⟩
    | idle =>
      simp only [hph] at h
      refine .inr ⟨rfl, ?_⟩
      cases hp : s.pos with
      | step1 => rw [hp] at h; exact .inl ⟨rfl, h⟩
      | blocked => rw [hp] at h; exact .inl ⟨rfl, h⟩
      | step2 a =>
        cases a with
        | failed => rw [hp] at h; cases h; exact .inr (.inl ⟨rfl, rfl⟩)
        | ok n => rw [hp] at h; cases h; exact .inr (.inr (.inl ⟨n, rfl, rfl⟩))
      | step3 n => rw [hp] at h; exact .inr (.inr (.inr (.inl ⟨n, rfl, h⟩)))
      | step4 r => rw [hp] at h; cases h; exact .inr (.inr (.inr (.inr (.inl ⟨r, rfl, rfl⟩))))
      | step5 => rw [hp] at h; cases h; exact .inr (.inr (.inr (.inr (.inr ⟨rfl, rfl⟩))))
      | stopped why => rw [hp] at h; exact .inl ⟨rfl, by rw [State.acquireStep_stopped hp]; exact h⟩

/-- What PARSE can do when it goes on: nothing is requested of a source that could not be initialised, the request is
accepted, or it is held. -/
theorem execParse_cases {n : Nat} {s t : State} (h : execParse n s = .next t) :
    n ≤ s.config.capacity ∧
    ((s.handle = .unavailable ∧ t = s.fresh) ∨
     (s.handle ≠ .unavailable ∧ ((s.phase = .idle ∧ t = s.fresh.accept n) ∨ (s.phase = .busy ∧ t = s)))) := by
  unfold execParse at h
  split at h
  next hn =>
    refine ⟨hn, ?_⟩
    split at h
    next hu => cases h; exact .inl ⟨hu, rfl⟩
    next hu =>
      cases hp : s.phase with
      | idle => rw [hp] at h; cases h; exact .inr ⟨hu, .inl ⟨rfl, rfl⟩⟩
      | busy => rw [hp] at h; cases h; exact .inr ⟨hu, .inr ⟨rfl, rfl⟩⟩
  next => cases h

/-- Taking a response: the one offered, or nothing. -/
theorem State.takeIfOffered_cases (s : State) (r : Response) :
    (s.phase = .busy ∧ s.rsp = some r ∧ s.takeIfOffered r = s.fresh.take r) ∨ s.takeIfOffered r = s.fresh := by
  unfold State.takeIfOffered
  split
  next h => exact .inl ⟨h.1, h.2, rfl⟩
  next => exact .inr rfl

/-- What the step does with script octets that are no operation, when it goes on: the system's own step, an answer placed, or
octets dropped. -/
theorem State.notAnOperation_cases {s t : State} {e : DecodeError} (h : s.notAnOperation e = .next t) :
    s.advance = .next t ∨ (∃ rest, t = { s.fresh with script := rest }) ∨
    ∃ a rest, readAnswer s.config s.script = .ok (a, rest) ∧
      t = { s.fresh with answers := s.answers ++ [a], script := rest } := by
  unfold State.notAnOperation at h
  split at h
  · exact .inl h
  · unfold State.placeAnswer at h
    split at h
    next a rest ha => cases h; exact .inr (.inr ⟨a, rest, ha, rfl⟩)
    · exact .inl h
    · cases h; exact .inr (.inl ⟨_, rfl⟩)
  · cases h; exact .inr (.inl ⟨_, rfl⟩)
  · cases h
  · cases h

/-- What a step can do when it goes on: the system's own step, octets that place nothing dropped, an answer placed, or the next
placed operation. -/
theorem step_cases {s t : State} (h : step s = .next t) :
    s.advance = .next t ∨ (∃ rest, t = { s.fresh with script := rest }) ∨
    (∃ a rest, readAnswer s.config s.script = .ok (a, rest) ∧
      t = { s.fresh with answers := s.answers ++ [a], script := rest }) ∨
    ∃ i rest, s.fetch = some (.ok (i, rest)) ∧ s.holds i = false ∧ exec i { s with script := rest } = .next t := by
  unfold step at h
  split at h
  next => exact .inl h
  next e _ =>
    rcases State.notAnOperation_cases h with h | h | h
    · exact .inl h
    · exact .inr (.inl h)
    · exact .inr (.inr (.inl h))
  next i rest hf =>
    split at h
    next => exact .inl h
    next hh => exact .inr (.inr (.inr ⟨i, rest, hf, by simpa using hh, h⟩))

end Sys2Proof.Machine
end

