-- ==== Sys2Proof/Laws/PerInstr.lean ====
section
/-! SUPPORT. Statements for all operations, one lemma per constructor. -/

namespace Sys2Proof.Laws

/-- An operation is encoded in its selector octet and as many octets as that selector's row has. -/
def EncodedSize.Statement (i : Instr) : Prop := ∀ c : Config, (encode c i).length = 1 + rowOctets c i.selector

/-- A number is written in as many octets as asked. -/
theorem octetsOf_length (k n : Nat) : (octetsOf k n).length = k := by
  induction k with
  | zero => rfl
  | succ k ih => rw [octetsOf, List.length_cons, ih]

/-- Operand octets that start with those of a number. -/
theorem octetsOf_append_length (k n : Nat) (bs : List Octet) : (octetsOf k n ++ bs).length = k + bs.length := by
  rw [List.length_append, octetsOf_length]

/-- The selector octet comes on top of the operands'. -/
theorem EncodedSize.of_operands {i : Instr} (h : ∀ c : Config, (i.operands c).length = rowOctets c i.selector) :
    EncodedSize.Statement i := fun c => by rw [encode, List.length_cons, h, Nat.add_comm]

theorem EncodedSize.checkLen (n : Nat) : EncodedSize.Statement (.checkLen n) := EncodedSize.of_operands fun _ => octetsOf_length _ _
theorem EncodedSize.getDst (h : Hdr) : EncodedSize.Statement (.getDst h) := fun _ => rfl
theorem EncodedSize.getSrc (h : Hdr) : EncodedSize.Statement (.getSrc h) := fun _ => rfl
theorem EncodedSize.ntoh16 (a b : Octet) : EncodedSize.Statement (.ntoh16 a b) := fun _ => rfl
theorem EncodedSize.swap16 (x : U16) : EncodedSize.Statement (.swap16 x) := fun _ => rfl
theorem EncodedSize.le16 (a b : Octet) : EncodedSize.Statement (.le16 a b) := fun _ => rfl
theorem EncodedSize.be16 (a b : Octet) : EncodedSize.Statement (.be16 a b) := fun _ => rfl
theorem EncodedSize.getType (h : Hdr) : EncodedSize.Statement (.getType h) := fun _ => rfl
theorem EncodedSize.decode (n : Nat) (h : Hdr) : EncodedSize.Statement (.decode n h) := EncodedSize.of_operands fun _ => octetsOf_append_length _ _ _
theorem EncodedSize.parse (n : Nat) : EncodedSize.Statement (.parse n) := EncodedSize.of_operands fun _ => octetsOf_length _ _
theorem EncodedSize.rspOk (r : Record) : EncodedSize.Statement (.rspOk r) := EncodedSize.of_operands fun _ => octetsOf_append_length _ _ _
theorem EncodedSize.rspTrunc : EncodedSize.Statement .rspTrunc := EncodedSize.of_operands fun _ => octetsOf_append_length _ _ _
theorem EncodedSize.reset : EncodedSize.Statement .reset := fun _ => rfl
theorem EncodedSize.acquire : EncodedSize.Statement .acquire := fun _ => rfl
theorem EncodedSize.loopIter : EncodedSize.Statement .loopIter := fun _ => rfl
theorem EncodedSize.cancel : EncodedSize.Statement .cancel := fun _ => rfl
theorem EncodedSize.makeRecord (n : Nat) (h : Header) : EncodedSize.Statement (.makeRecord n h) := EncodedSize.of_operands fun _ => octetsOf_append_length _ _ _
theorem EncodedSize.hex2 (o : Octet) : EncodedSize.Statement (.hex2 o) := fun _ => rfl
theorem EncodedSize.hex4 (v : U16) : EncodedSize.Statement (.hex4 v) := fun _ => rfl
theorem EncodedSize.addr (a : Addr) : EncodedSize.Statement (.addr a) := fun _ => rfl
theorem EncodedSize.dec (n : Nat) : EncodedSize.Statement (.dec n) := EncodedSize.of_operands fun _ => octetsOf_length _ _
theorem EncodedSize.renderLine (r : Record) : EncodedSize.Statement (.renderLine r) := EncodedSize.of_operands fun _ => octetsOf_append_length _ _ _

end Sys2Proof.Laws
end

