-- ==== Sys2Proof/Tests/Slice0.lean ====
section
/-! SUPPORT. The model's own tests. Expected values are the spec's (95_test_vectors unless another file is named), words
are written out from 30_encoding R61, R69, R75. Every statement with hypotheses has a witness that meets them together. -/

namespace Sys2Proof.Tests

open Sys2Proof.Machine

/-! ## Helpers -/

/-- A view of the next state, `none` on a fault or a refusal. -/
def seen {α : Type} (f : State → α) : Out → Option α
  | .next s => some (f s)
  | .fault _ => none
  | .refused _ => none

/-- The refusal, if any. -/
def refusal : Out → Option Refusal
  | .next _ => none
  | .fault _ => none
  | .refused r => some r

/-- The fault, if any. -/
def fault : Out → Option Fault
  | .next _ => none
  | .fault f => some f
  | .refused _ => none

/-- What a decoding gives, without the octets left. -/
def decoded (bs : List Octet) : Option Instr :=
  match decode Config.default bs with
  | .ok (i, []) => some i
  | .ok (_, _ :: _) => none
  | .error _ => none

/-- Why octets are rejected. -/
def rejected (bs : List Octet) : Option DecodeError :=
  match decode Config.default bs with
  | .ok _ => none
  | .error e => some e

/-- A buffer of 100 octets. -/
def small : Config := { capacity := 100 }
/-- A buffer of 2^20 octets. -/
def large : Config := { capacity := 1048576 }

/-- V-D1 and E4. -/
def vd1 : List Octet := [0xaa, 0xbb, 0xcc, 0xdd, 0xee, 0xff, 0x11, 0x22, 0x33, 0x44, 0x55, 0x66, 0x08, 0x00]
/-- V-D4. -/
def vd4 : List Octet := [0xff, 0xff, 0xff, 0xff, 0xff, 0xff, 0x02, 0x00, 0x5e, 0x10, 0x20, 0x30, 0x08, 0x06]
/-- V-D8: every octet distinct. -/
def vd8 : List Octet := [1, 2, 3, 4, 5, 6, 7, 8, 9, 10, 11, 12, 13, 14]
/-- V-D8 as the header vector. -/
def vd8h : Hdr := 0x0102030405060708090a0b0c0d0e
/-- The record of V-D8 with a length. -/
def rec8 (n : Nat) : Record := ⟨n, ⟨1, 2, 3, 4, 5, 6⟩, ⟨7, 8, 9, 10, 11, 12⟩, 0x0d0e⟩
/-- The record of V-D1 with a length. -/
def rec1 (n : Nat) : Record := ⟨n, ⟨0xaa, 0xbb, 0xcc, 0xdd, 0xee, 0xff⟩, ⟨0x11, 0x22, 0x33, 0x44, 0x55, 0x66⟩, 0x0800⟩

/-- A source with these reports ready. -/
def ready (rs : List Report) : State := { State.reset with answers := rs.map some }
/-- A buffer that holds these octets. -/
def holding (os : List Octet) : State := { State.reset with fb := Memory.writeFrom [] 0 os }
/-- `PARSE 14` accepted on V-D8, the loop waiting for it. -/
def busy8 : State := { (holding vd8).accept 14 with pos := .step3 14 }
/-- The same on a frame of 13 octets. -/
def busy13 : State := { (holding (vd8.take 13)).accept 13 with pos := .step3 13 }

/-! ## Well-formedness: one ill-formed term per check, and the bound itself -/

theorem test_defect_checkLen : (Instr.checkLen 65537).defect Config.default = some .lengthBeyondCapacity := by decide
theorem test_defect_decode : (Instr.decode 65537 0).defect Config.default = some .lengthBeyondCapacity := by decide
theorem test_defect_parse : (Instr.parse 65537).defect Config.default = some .lengthBeyondCapacity := by decide
theorem test_defect_rspOk : (Instr.rspOk (rec8 131072)).defect Config.default = some .lengthTooWide := by decide
theorem test_defect_makeRecord : (Instr.makeRecord 131072 ⟨⟨0, 0, 0, 0, 0, 0⟩, ⟨0, 0, 0, 0, 0, 0⟩, 0⟩).defect Config.default = some .lengthTooWide := by decide
theorem test_defect_dec : (Instr.dec 131072).defect Config.default = some .lengthTooWide ∧ (Instr.dec 131071).defect Config.default = none := by decide
theorem test_defect_renderLine : (Instr.renderLine (rec8 131072)).defect Config.default = some .lengthTooWide := by decide
/-- Another configuration: the bound is its own. -/
theorem test_defect_small : (Instr.parse 101).defect small = some .lengthBeyondCapacity ∧ (Instr.parse 100).defect small = none := by decide
theorem test_wellFormed_at_bound : (Instr.parse 65536).defect Config.default = none ∧ (Instr.checkLen 0).defect Config.default = none := by decide

/-- 00_scope R6: the fields follow one another and fill the header; R7: the buffer holds a header. -/
theorem test_constants :
    Config.dstOff + Config.addrLen = Config.srcOff ∧ Config.srcOff + Config.addrLen = Config.typeOff ∧
    Config.typeOff + Config.typeLen = Config.hdrLen ∧ Config.hdrLen ≤ Config.default.capacity := by decide

/-- 00_scope R8: the widths of the default, and of a buffer of 100 octets (lengths 0 to 100, offsets 0 to 99: seven bits). -/
theorem test_widths : Config.default.lenWidth = 17 ∧ Config.default.addrWidth = 16 ∧ small.lenWidth = 7 ∧ small.addrWidth = 7 ∧
    large.lenWidth = 21 ∧ large.addrWidth = 20 := by decide

/-! ## Decoding: every constructor, from octets written out -/

theorem test_decode_checkLen : decoded [0, 0x00, 0x00, 0x40] = some (.checkLen 64) := by decide
theorem test_decode_getDst : decoded (1 :: vd8) = some (.getDst vd8h) := by decide
theorem test_decode_getSrc : decoded (2 :: vd8) = some (.getSrc vd8h) := by decide
theorem test_decode_ntoh16 : decoded [3, 0x08, 0x06] = some (.ntoh16 0x08 0x06) := by decide
theorem test_decode_swap16 : decoded [4, 0x12, 0x34] = some (.swap16 0x1234) := by decide
theorem test_decode_le16 : decoded [5, 0x08, 0x06] = some (.le16 0x08 0x06) := by decide
theorem test_decode_be16 : decoded [6, 0x08, 0x06] = some (.be16 0x08 0x06) := by decide
theorem test_decode_getType : decoded (7 :: vd8) = some (.getType vd8h) := by decide
theorem test_decode_decode : decoded ([8, 0x01, 0x00, 0x00] ++ vd8) = some (.decode 65536 vd8h) := by decide
theorem test_decode_parse : decoded [9, 0x00, 0x05, 0xea] = some (.parse 1514) := by decide
theorem test_decode_rspOk : decoded ([10, 0x00, 0x00, 0x40] ++ vd8) = some (.rspOk (rec8 64)) := by decide
theorem test_decode_rspTrunc : decoded ([10, 0x03, 0xff, 0x77] ++ vd8) = some .rspTrunc := by decide
theorem test_decode_events : decoded [12] = some .reset ∧ decoded [13] = some .acquire ∧ decoded [14] = some .loopIter ∧
    decoded [15] = some .cancel := by decide
theorem test_decode_makeRecord : decoded ([16, 0x00, 0x00, 0x40] ++ vd8) =
    some (.makeRecord 64 ⟨⟨1, 2, 3, 4, 5, 6⟩, ⟨7, 8, 9, 10, 11, 12⟩, 0x0d0e⟩) := by decide
theorem test_decode_hex2 : decoded [17, 0xab] = some (.hex2 0xab) := by decide
theorem test_decode_hex4 : decoded [18, 0x86, 0xdd] = some (.hex4 0x86dd) := by decide
theorem test_decode_addr : decoded [19, 1, 2, 3, 4, 5, 6] = some (.addr ⟨1, 2, 3, 4, 5, 6⟩) := by decide
theorem test_decode_dec : decoded [20, 0x01, 0x00, 0x00] = some (.dec 65536) := by decide
theorem test_decode_renderLine : decoded ([21, 0x00, 0x00, 0x40] ++ vd8) = some (.renderLine (rec8 64)) := by decide

/-- The vectors of other configurations: a request of 7 bits in one octet, a response of 121 in sixteen, a request of 21 bits. -/
theorem test_decode_other_widths :
    decode small [9, 100] = .ok (.parse 100, []) ∧ decode small [9, 101] = .error (.illFormed .lengthBeyondCapacity) ∧
    decode small [9, 128] = .error .reservedBits ∧ decode small ([10, 0x00, 64] ++ vd8) = .ok (.rspOk (rec8 64), []) ∧
    decode small ([10, 0x00, 0x80] ++ vd8) = .ok (.rspTrunc, []) ∧ decode large [9, 0x10, 0, 0] = .ok (.parse 1048576, []) := by decide

theorem test_reject_names :
    rejected [] = some .scriptEnds ∧ rejected [9, 0] = some .scriptEnds ∧ rejected [11] = some (.unknownSelector 11) ∧
    rejected [9, 0x02, 0, 0] = some .reservedBits ∧ rejected ([10, 0x04, 0, 0] ++ vd8) = some .statusNeverProduced ∧
    rejected ([10, 0x08, 0, 0] ++ vd8) = some .reservedBits ∧
    rejected [9, 0x01, 0x00, 0x01] = some (.illFormed .lengthBeyondCapacity) := by decide

/-! ## The block's pure operations: V-C, V-D, V-N, V-S -/

theorem test_checkLen_13_14 :
    seen State.out (exec (.checkLen 13) State.reset) = some (some (.bool false)) ∧
    seen State.out (exec (.checkLen 14) State.reset) = some (some (.bool true)) := by decide
theorem test_checkLen_capacity :
    seen State.out (exec (.checkLen 65536) State.reset) = some (some (.bool true)) ∧
    refusal (exec (.checkLen 65537) State.reset) = some .lengthBeyondCapacity := by decide
theorem test_getDst_vd8 : seen State.out (exec (.getDst vd8h) State.reset) = some (some (.addr ⟨1, 2, 3, 4, 5, 6⟩)) := by decide
theorem test_getSrc_vd8 : seen State.out (exec (.getSrc vd8h) State.reset) = some (some (.addr ⟨7, 8, 9, 10, 11, 12⟩)) := by decide
theorem test_getType_vd8 : seen State.out (exec (.getType vd8h) State.reset) = some (some (.u16 0x0d0e)) := by decide
theorem test_ntoh16_0800 : seen State.out (exec (.ntoh16 0x08 0x00) State.reset) = some (some (.u16 0x0800)) := by decide
theorem test_ntoh16_86dd_8000 :
    seen State.out (exec (.ntoh16 0x86 0xdd) State.reset) = some (some (.u16 0x86dd)) ∧
    seen State.out (exec (.ntoh16 0x80 0x00) State.reset) = some (some (.u16 32768)) := by decide
theorem test_swap16 :
    seen State.out (exec (.swap16 0x1234) State.reset) = some (some (.u16 0x3412)) ∧
    seen State.out (exec (.swap16 0x8001) State.reset) = some (some (.u16 0x0180)) := by decide
theorem test_le16 : seen State.out (exec (.le16 0x86 0xdd) State.reset) = some (some (.u16 0xdd86)) := by decide
theorem test_be16 : seen State.out (exec (.be16 0x86 0xdd) State.reset) = some (some (.u16 0x86dd)) := by decide
theorem test_decode_long : seen State.out (exec (.decode 15 vd8h) State.reset) =
    some (some (.header (.ok ⟨⟨1, 2, 3, 4, 5, 6⟩, ⟨7, 8, 9, 10, 11, 12⟩, 0x0d0e⟩))) := by decide
theorem test_decode_short :
    seen State.out (exec (.decode 13 vd8h) State.reset) = some (some (.header .truncated)) ∧
    seen State.reads (exec (.decode 13 vd8h) State.reset) = some [] := by decide

/-! ## The transaction: V-P, V-Z, P5 to P7 -/

/-- V-P step 6. -/
theorem test_parse_14 :
    seen State.rsp (exec (.parse 14) (holding vd8)) = some (some (.ok (rec8 14))) ∧
    seen State.phase (exec (.parse 14) (holding vd8)) = some .busy := by decide
/-- V-P step 4: after 13 new octets over V-D4's, octet 13 is stale; nothing is read or reported. -/
theorem test_parse_13_stale :
    seen State.rsp (exec (.parse 13) { State.reset with fb := Memory.writeFrom (Memory.writeFrom [] 0 vd4) 0 (vd8.take 13) }) =
      some (some .truncated) ∧
    seen State.reads (exec (.parse 13) (holding vd8)) = some [] := by decide
/-- E4: the response is taken, the block is idle, the loop goes to step 4 with the record. -/
theorem test_rspOk_taken :
    seen State.out (exec (.rspOk (rec8 14)) busy8) = some (some (.response (.ok (rec8 14)))) ∧
    seen State.pos (exec (.rspOk (rec8 14)) busy8) = some (.step4 (rec8 14)) := by decide
theorem test_rspOk_not_offered : seen State.phase (exec (.rspOk (rec8 15)) busy8) = some .busy := by decide
theorem test_rspTrunc_taken :
    seen State.out (exec .rspTrunc busy13) = some (some (.response .truncated)) ∧
    seen State.pos (exec .rspTrunc busy13) = some .step5 := by decide
/-- V-Z: reset while busy. -/
theorem test_reset_busy :
    seen State.phase (exec .reset busy8) = some .idle ∧ seen State.rsp (exec .reset busy8) = some none ∧
    seen State.fb (exec .reset busy8) = some busy8.fb := by decide
/-- 70 R153: a request of the environment's own, before any frame, is answered, and the loop renders nothing for it. -/
theorem test_rspOk_foreign :
    seen State.pos (exec (.rspOk (rec8 14)) { busy8 with pos := .step1 }) = some .step1 ∧
    seen State.pos (exec (.rspOk (rec8 14)) { busy8 with pos := .step2 (.ok 64) }) = some (.step2 (.ok 64)) := by decide
/-- 10_state R28: the loop's own request, placed by itself, takes the loop through step 3. -/
theorem test_parse_step3 :
    seen State.pos (exec (.parse 14) { holding vd8 with pos := .step2 (.ok 14) }) = some (.step3 14) ∧
    seen State.pos (exec (.parse 13) { holding vd8 with pos := .step2 (.ok 14) }) = some (.step2 (.ok 14)) := by decide
/-- 70 R153: the system's own step takes the open response on to the record's line. -/
theorem test_step_answers : seen State.pos (step busy8) = some (.step4 (rec8 14)) ∧ seen State.pos (step busy13) = some .step5 := by decide
/-- V-Z: a request offered while busy is held. -/
theorem test_step_holds_request :
    seen State.script (step { busy8 with script := [9, 0, 0, 64] }) = some [9, 0, 0, 64] ∧
    seen State.phase (step { busy8 with script := [9, 0, 0, 64] }) = some .idle := by decide

/-! ## The environment: V-X, P1 to P6 -/

/-- V-P step 1: five octets over V-D4's. -/
theorem test_acquire_5 :
    seen (fun s => (List.range 14).map (s.fb.read? ·)) (exec .acquire
      { ready [.returned [0xde, 0xad, 0xbe, 0xef, 0x00] false] with fb := Memory.writeFrom [] 0 vd4 }) =
      some ([0xde, 0xad, 0xbe, 0xef, 0x00, 0xff, 0x02, 0x00, 0x5e, 0x10, 0x20, 0x30, 0x08, 0x06].map some) := by decide
theorem test_acquire_error :
    seen State.out (exec .acquire (ready [.negative 0])) = some (some (.acquired .failed)) ∧
    seen State.out (exec .acquire (ready [.returned vd8 true])) = some (some (.acquired .failed)) := by decide
/-- P6. -/
theorem test_acquire_race : fault (exec .acquire { busy8 with answers := [some (.returned vd8 false)] }) = some .bufferRace := by decide
set_option maxRecDepth 4000 in
/-- E4, P1: the line of the 64-octet frame. -/
theorem test_loopIter_line :
    seen State.lines (exec .loopIter (ready [.returned (vd1 ++ List.replicate 50 0) false])) =
      some ["Packet (64 bytes): Destination: |aa:bb:cc:dd:ee:ff| Source: |11:22:33:44:55:66| Protocol: |0x0800|".toList] := by
  decide
/-- E5: the second frame of P2. -/
theorem test_loopIter_short :
    seen State.lines (exec .loopIter (ready [.returned [0xde, 0xad, 0xbe, 0xef, 0x00] false])) = some [] ∧
    seen State.pos (exec .loopIter (ready [.returned [0xde, 0xad, 0xbe, 0xef, 0x00] false])) = some .step1 := by decide
theorem test_cancel : seen State.cancelFlag (exec .cancel State.reset) = some true := by decide
/-- V-X: an error report on an iteration where cancellation is pending. -/
theorem test_cancel_first :
    seen State.pos (exec .loopIter { ready [.negative 0] with cancelFlag := true }) = some (.stopped .cancelled) ∧
    seen State.answers (exec .loopIter { ready [.negative 0] with cancelFlag := true }) = some [some (.negative 0)] := by decide
/-- V-X: the Frame Source cannot be initialised: never started, and no request reaches the block. -/
theorem test_unavailable :
    seen State.pos (step { holding vd8 with handle := .unavailable }) = some (.stopped .sourceUnavailable) ∧
    seen State.phase (step { holding vd8 with handle := .unavailable, script := [9, 0, 0, 14] }) = some .idle := by decide
/-- 30_encoding R68 in another configuration. -/
theorem test_acquire_small :
    refusal (exec .acquire { ready [.returned (List.replicate 101 0) false] with config := small }) = some .frameBeyondCapacity ∧
    refusal (exec (.parse 101) { State.reset with config := small }) = some .lengthBeyondCapacity := by decide
/-- V-Z: reset, then nothing from the source: the loop waits in its call and no response is offered. -/
theorem test_step_from_reset :
    seen State.pos (step { State.reset with answers := [none] }) = some .blocked ∧
    seen State.rsp (step { State.reset with answers := [none] }) = some none := by decide
/-- 30_encoding R76: the script's `ACQ 2 : aa bb`, `ACQ ERR`, and a frame whose octets are not all there. -/
theorem test_place_answer :
    seen State.answers (step { State.reset with script := [22, 0, 0, 2, 0xaa, 0xbb, 13] }) = some [some (.returned [0xaa, 0xbb] false)] ∧
    seen State.script (step { State.reset with script := [22, 0, 0, 2, 0xaa, 0xbb, 13] }) = some [13] ∧
    seen State.answers (step { ready [.negative 1] with script := [23] }) = some [some (.negative 1), some (.negative 0)] ∧
    seen State.script (step { State.reset with answers := [none], script := [22, 0, 0, 2, 0xaa] }) = some [22, 0, 0, 2, 0xaa] := by decide

/-! ## Text: V-R -/

theorem test_makeRecord : seen State.out (exec (.makeRecord 64 ⟨⟨1, 2, 3, 4, 5, 6⟩, ⟨7, 8, 9, 10, 11, 12⟩, 0x0d0e⟩) State.reset) =
    some (some (.record (rec8 64))) := by decide
/-- Outside 14 to `CAPACITY` the length is a free value; the fields are the header's. -/
theorem test_makeRecord_free : ∃ l,
    seen State.out (exec (.makeRecord 13 ⟨⟨1, 2, 3, 4, 5, 6⟩, ⟨7, 8, 9, 10, 11, 12⟩, 0x0d0e⟩) State.reset) =
      some (some (.record (rec8 l))) ∧
    seen State.out (exec (.makeRecord 65537 ⟨⟨1, 2, 3, 4, 5, 6⟩, ⟨7, 8, 9, 10, 11, 12⟩, 0x0d0e⟩) State.reset) =
      some (some (.record (rec8 l))) := ⟨_, rfl, rfl⟩
theorem test_hex2 :
    seen State.out (exec (.hex2 0x0a) State.reset) = some (some (.text "0a".toList)) ∧
    seen State.out (exec (.hex2 0xab) State.reset) = some (some (.text "ab".toList)) := by decide
theorem test_hex4 :
    seen State.out (exec (.hex4 0x0009) State.reset) = some (some (.text "0009".toList)) ∧
    seen State.out (exec (.hex4 0x86dd) State.reset) = some (some (.text "86dd".toList)) := by decide
theorem test_addr : seen State.out (exec (.addr ⟨0, 1, 2, 3, 4, 5⟩) State.reset) =
    some (some (.text "00:01:02:03:04:05".toList)) := by decide
theorem test_dec :
    seen State.out (exec (.dec 1514) State.reset) = some (some (.text "1514".toList)) ∧
    seen State.out (exec (.dec 65536) State.reset) = some (some (.text "65536".toList)) := by decide
theorem test_dec_zero : seen State.out (exec (.dec 0) State.reset) = some (some (.text "0".toList)) := by decide
theorem test_renderLine : seen State.out (exec (.renderLine (rec8 14)) State.reset) =
    some (some (.text "Packet (14 bytes): Destination: |01:02:03:04:05:06| Source: |07:08:09:0a:0b:0c| Protocol: |0x0d0e|".toList)) := by
  decide

/-! ## Ports and the step's placed operation -/

theorem test_rspPort : busy8.rspPort.toNat = 0x0000e0102030405060708090a0b0c0d0e ∧ busy8.reqReady = false := by decide
theorem test_bufAddrs : busy8.bufAddrs = [0, 1, 2, 3, 4, 5, 6, 7, 8, 9, 10, 11, 12, 13] := by decide
theorem test_withFetchWord_runs :
    seen State.phase (step ((holding vd8).withFetchWord 24 14)) = some .busy ∧
    seen State.out (step (State.reset.withFetchWord 16 0x0800)) = some (some (.u16 0x0800)) ∧
    seen State.script (step (State.reset.withFetchWord 32 0)) = some [] := by decide
/-- Script octets that are no operation end no run; what the block never produces, and a length above `CAPACITY`, do. -/
theorem test_step_not_an_operation :
    seen State.script (step { State.reset with script := [11, 15] }) = some [15] ∧
    seen State.script (step { State.reset with script := [9, 2, 0, 0, 15] }) = some [15] ∧
    seen State.script (step { State.reset with answers := [none], script := [9, 0] }) = some [9, 0] ∧
    refusal (step { State.reset with script := [10, 4, 0, 14] ++ vd8 }) = some .statusNeverProduced ∧
    refusal (step { State.reset with script := [9, 1, 0, 1] }) = some .lengthBeyondCapacity := by decide

/-! ## Witnesses: the hypotheses of each statement, met together -/

/-- Lengths at the bounds where clauses meet. -/
theorem witness_lengths :
    (13 : Nat) < 14 ∧ 14 ≤ (14 : Nat) ∧ (65536 : Nat) ≤ 65536 ∧ 65536 < (65537 : Nat) ∧
    65536 < (rec8 65537).len := by decide

theorem witness_parse_idle : State.reset.phase = .idle ∧ State.reset.handle ≠ .unavailable ∧
    (14 : Nat) ≤ State.reset.config.capacity ∧ State.reset.config.capacity = 65536 := by decide

/-- OnlyHeaderOctetsAreRead, in both forms. -/
theorem witness_reads :
    (∃ t, State.reset.phase = .idle ∧ State.reset.handle ≠ .unavailable ∧ exec (.parse 14) State.reset = .next t) ∧
    ∃ t, exec (.decode 13 vd8h) State.reset = .next t := ⟨⟨_, rfl, by decide, rfl⟩, ⟨_, rfl⟩⟩

/-- ResponseDependsOnHeaderOctetsOnly: two states that differ in history and agree on the header octets. -/
theorem witness_same_header :
    (holding vd8).phase = .idle ∧ { holding vd8 with cancelFlag := true, draws := 7 }.phase = .idle ∧
    (holding vd8).handle ≠ .unavailable ∧ { holding vd8 with cancelFlag := true, draws := 7 }.handle ≠ .unavailable ∧
    SameHeaderOctets (holding vd8) { holding vd8 with cancelFlag := true, draws := 7 } ∧
    (∃ u, exec (.parse 14) (holding vd8) = .next u) ∧
    ∃ v, exec (.parse 14) { holding vd8 with cancelFlag := true, draws := 7 } = .next v :=
  ⟨rfl, rfl, by decide, by decide, fun _ _ => rfl, ⟨_, rfl⟩, ⟨_, rfl⟩⟩

/-- RequestIsHeldWhileBusy. -/
theorem witness_request_held :
    { busy8 with script := encode Config.default (.parse 64) ++ [12] }.phase = .busy ∧ busy8.handle ≠ .unavailable ∧
    (64 : Nat) ≤ busy8.config.capacity ∧
    { busy8 with script := encode Config.default (.parse 64) ++ [12] }.script = encode busy8.config (.parse 64) ++ [12] ∧
    busy8.rsp = some (.ok (rec8 14)) ∧ busy8.pos = .step3 busy8.reqLen ∧
    { busy13 with script := encode Config.default (.parse 64) ++ [12] }.script = encode busy13.config (.parse 64) ++ [12] ∧
    busy13.rsp = some .truncated ∧ busy13.pos = .step3 busy13.reqLen ∧ { busy13 with pos := .step1 }.pos ≠ .step3 13 := by decide

theorem witness_rspOk : busy8.phase = .busy ∧ busy8.rsp = some (.ok (rec8 14)) ∧ busy8.pos = .step3 14 ∧
    busy8.reqLen = 14 := by decide
theorem witness_rspTrunc : busy13.phase = .busy ∧ busy13.rsp = some .truncated ∧ busy13.pos = .step3 13 ∧
    busy13.reqLen = 13 := by decide
theorem witness_no_response : ¬ (busy8.phase = .busy ∧ busy8.rsp = some .truncated) ∧
    ¬ (busy8.phase = .busy ∧ busy8.rsp = some (.ok (rec8 15))) := by decide
theorem witness_reset_next : busy8.handle ≠ .unavailable ∧ (14 : Nat) ≤ busy8.config.capacity ∧
    ∃ t, exec .reset busy8 = .next t := ⟨by decide, by decide, ⟨_, rfl⟩⟩

/-- The call goes ahead from step 1, and in a blocked call although the flag is set. -/
theorem witness_mayAcquire (rs : List Report) :
    (ready rs).MayAcquire ∧ (∀ r, (ready (r :: rs)).answer = some r) ∧ { State.reset with answers := [none] }.MayAcquire ∧
    { State.reset with answers := [none] }.answer = none ∧ { ready rs with pos := .blocked, cancelFlag := true }.MayAcquire :=
  ⟨⟨rfl, rfl, .inr ⟨rfl, rfl⟩⟩, fun _ => rfl, ⟨rfl, rfl, .inr ⟨rfl, rfl⟩⟩, rfl, ⟨rfl, rfl, .inl rfl⟩⟩

/-- Frames of 0, 13 and 14 octets and of the whole buffer, and one octet more. -/
theorem witness_frames :
    ([] : List Octet).length < 14 ∧ (vd8.take 13).length < 14 ∧ 14 ≤ vd8.length ∧
    (List.replicate 65536 (0 : Octet)).length ≤ 65536 ∧ 65536 < (List.replicate 65537 (0 : Octet)).length :=
  ⟨by decide, by decide, by decide, by rw [List.length_replicate], by rw [List.length_replicate]; decide⟩

/-- The three kinds of failing report. -/
theorem witness_failures : (∀ os, Report.negative 0 ≠ .returned os false) ∧ (∀ os, Report.sourceClosed ≠ .returned os false) ∧
    (∀ os, Report.returned vd8 true ≠ .returned os false) := by
  refine ⟨fun _ => by simp, fun _ => by simp, fun _ => by simp⟩

theorem witness_closed : { ready [] with handle := .closed }.phase = .idle ∧ { ready [] with handle := .closed }.pos = .step1 ∧
    { ready [] with handle := .closed }.cancelFlag = false := by decide
theorem witness_cancelled : { State.reset with cancelFlag := true }.phase = .idle ∧
    { State.reset with cancelFlag := true }.handle ≠ .unavailable ∧ { State.reset with cancelFlag := true }.pos = .step1 := by decide
theorem witness_unavailable : { State.reset with handle := .unavailable }.handle = .unavailable ∧
    (∀ why, { State.reset with handle := .unavailable }.pos ≠ .stopped why) ∧
    { State.reset with handle := .unavailable }.script = [] ∧ (14 : Nat) ≤ State.reset.config.capacity :=
  ⟨rfl, fun _ => by simp [State.reset], rfl, by decide⟩
theorem witness_race : busy8.phase = .busy ∧ busy8.handle ≠ .unavailable ∧ ∀ why, busy8.pos ≠ .stopped why :=
  ⟨rfl, by decide, fun _ => by simp [busy8]⟩
theorem witness_fault : exec .loopIter busy8 = .fault .bufferRace := rfl
theorem witness_mid_and_stopped :
    { State.reset with pos := .step5 }.pos.midIteration = true ∧ State.reset.handle ≠ .unavailable ∧
    { State.reset with pos := .stopped .cancelled }.phase = .idle := by
  decide

/-- IterationIsItsSteps. -/
theorem witness_iteration : (ready [.returned vd8 false]).script = [] ∧ (ready [.returned vd8 false]).pos.midIteration = false ∧
    ∃ t, exec .loopIter (ready [.returned vd8 false]) = .next t := ⟨rfl, rfl, ⟨_, rfl⟩⟩

/-- LoopStepsInOrder, a state per clause. -/
theorem witness_positions :
    State.reset.handle ≠ .unavailable ∧ { State.reset with pos := .step2 .failed }.phase = .idle ∧
    { State.reset with pos := .step2 (.ok 14) }.script = [] ∧ { State.reset with pos := .step3 14 }.phase = .idle ∧
    { State.reset with pos := .step4 (rec8 14) }.phase = .idle ∧ { State.reset with pos := .step5 }.phase = .idle := by decide

/-- WhatStopsTheLoop, once for each reason, and a placed LOOP_ITER that fails. -/
theorem witness_stops :
    (State.Inv { State.reset with cancelFlag := true } ∧
      ∃ t, step { State.reset with cancelFlag := true } = .next t ∧ t.pos = .stopped .cancelled) ∧
    (State.Inv { State.reset with handle := .unavailable } ∧
      ∃ t, step { State.reset with handle := .unavailable } = .next t ∧ t.pos = .stopped .sourceUnavailable) ∧
    (State.Inv { State.reset with pos := .step2 .failed } ∧
      ∃ t, step { State.reset with pos := .step2 .failed } = .next t ∧ t.pos = .stopped .acquisitionFailed) ∧
    State.Inv { ready [.negative 0] with script := [14] } ∧
      ∃ t, step { ready [.negative 0] with script := [14] } = .next t ∧ t.pos = .stopped .acquisitionFailed := by
  refine ⟨⟨?_, ⟨_, rfl, rfl⟩⟩, ⟨?_, ⟨_, rfl, rfl⟩⟩, ⟨?_, ⟨_, rfl, rfl⟩⟩, ?_, ⟨_, rfl, rfl⟩⟩ <;>
    exact ⟨Memory.wf_nil _, fun _ => rfl, by decide, fun h => by simp [State.reset, ready] at h, trivial,
      fun _ h => by simp [State.reset, ready, LoopPos.frameLen] at h, fun _ h => by simp [State.reset, ready] at h,
      fun _ h => by simp [State.reset, ready] at h, fun h => by simp_all [State.reset, ready]⟩
theorem witness_stopped_step : (∃ t, step { State.reset with pos := .stopped .cancelled, script := [23] } = .next t) ∧
    ∃ t, step { State.reset with pos := .stopped .cancelled, script := [14] } = .next t := ⟨⟨_, rfl⟩, ⟨_, rfl⟩⟩
theorem witness_flag_step : (∃ t, step { State.reset with cancelFlag := true, script := [12] } = .next t) ∧
    ∃ t, step { State.reset with script := [15] } = .next t ∧ t.cancelFlag = true := ⟨⟨_, rfl⟩, ⟨_, rfl, rfl⟩⟩

/-- The octets of V-D8 are written in the buffer that holds them. -/
theorem vd8_written : ∀ a < 14, (holding vd8).fb.read? a ≠ none := by decide

/-- The invariant holds of a busy block on a real header, with nothing placed, and its step goes on. -/
theorem witness_inv_busy : busy8.Inv ∧ busy8.phase = .busy ∧ busy8.script = [] ∧ ∃ t, step busy8 = .next t := by
  refine ⟨⟨by decide, fun h => absurd h (by decide), by decide, fun _ => ⟨by decide, by decide, rfl, by decide⟩, by unfold LoopPos.Ok busy8; decide,
    fun n h a ha => ?_, fun _ h => by simp [busy8] at h, by simp [busy8, holding, State.reset], fun h => absurd h (by decide)⟩,
    rfl, rfl, ⟨_, rfl⟩⟩
  have e : 14 = n := Option.some.inj h
  exact vd8_written a (by rw [← e] at ha; exact ha)

/-- The same on a frame of 13 octets, and of a busy block whose request is none of the loop's. -/
theorem witness_inv_busy_short : busy13.Inv ∧ busy13.phase = .busy ∧ busy13.script = [] ∧ busy13.pos = .step3 busy13.reqLen ∧
    busy13.reqLen < 14 ∧ State.Inv { busy8 with pos := .step1 } ∧ { busy8 with pos := .step1 }.pos ≠ .step3 14 := by
  refine ⟨⟨by decide, fun h => absurd h (by decide), by decide, fun _ => ⟨by decide, by decide, rfl, by decide⟩,
      by unfold LoopPos.Ok busy13; decide, fun n h a ha => ?_, fun _ h => by simp [busy13] at h,
      by simp [busy13, holding, State.reset], fun h => absurd h (by decide)⟩, rfl, rfl, rfl, by decide,
    ⟨by decide, fun h => absurd h (by decide), by decide, fun _ => ⟨by decide, by decide, rfl, by decide⟩, trivial,
      fun n h => by simp [LoopPos.frameLen] at h, fun _ h => by simp at h, by simp [busy8, holding, State.reset],
      fun h => absurd h (by decide)⟩, by decide⟩
  have e : 13 = n := Option.some.inj h
  exact (by decide : ∀ a < 13, (holding (vd8.take 13)).fb.read? a ≠ none) a (by rw [← e] at ha; exact ha)

/-- The invariant holds of a loop about to hand a line to the sink. -/
theorem witness_inv_line : State.Inv { holding vd8 with pos := .step4 (rec8 14) } ∧
    ∃ t, step { holding vd8 with pos := .step4 (rec8 14) } = .next t := by
  refine ⟨⟨by decide, fun _ => rfl, by decide, fun h => absurd h (by decide), by unfold LoopPos.Ok; decide,
    fun _ h => by simp [LoopPos.frameLen] at h, fun r h => ?_, by simp [holding, State.reset], fun h => absurd h (by decide)⟩,
    ⟨_, rfl⟩⟩
  have e := LoopPos.step4.inj h
  rw [← e]; decide

/-- StaleOctetsNeverShow: the same frame over different buffers. -/
theorem witness_stale :
    (ready [.returned vd8 false]).MayAcquire ∧ { ready [.returned vd8 false] with fb := Memory.writeFrom [] 0 vd4 }.MayAcquire ∧
    (∃ u, exec .loopIter (ready [.returned vd8 false]) = .next u) ∧
    ∃ v, exec .loopIter { ready [.returned vd8 false] with fb := Memory.writeFrom [] 0 vd4 } = .next v :=
  ⟨⟨rfl, rfl, .inr ⟨rfl, rfl⟩⟩, ⟨rfl, rfl, .inr ⟨rfl, rfl⟩⟩, ⟨_, rfl⟩, ⟨_, rfl⟩⟩

theorem witness_port : busy8.rsp = some (.ok (rec8 14)) ∧ busy13.rsp = some .truncated := by decide
theorem witness_wellFormed : (Instr.parse 65536).WellFormed Config.default ∧ (Instr.rspOk (rec8 14)).WellFormed Config.default ∧
    (Instr.parse 100).WellFormed small := by decide
theorem witness_decodes : decode Config.default ([9, 0, 0, 64] ++ [12]) = .ok (.parse 64, [12]) ∧
    decode Config.default (([10, 0x03, 0xff, 0x77] ++ vd8) ++ [12]) = .ok (.rspTrunc, [12]) := ⟨rfl, rfl⟩

/-- StepRunsPlacedOperation: operations that wait (a request in BUSY and at each closing position, an acquisition in the
middle of an iteration), operations that do not, nothing placed, and each kind of octets that are no operation. -/
theorem witness_step :
    busy8.holds (.parse 64) = true ∧ { State.reset with pos := .step2 .failed }.holds (.parse 64) = true ∧
    { State.reset with pos := .step4 (rec8 14) }.holds (.parse 64) = true ∧
    { State.reset with pos := .step5 }.holds (.parse 64) = true ∧ { State.reset with pos := .step3 14 }.holds .acquire = true ∧
    { State.reset with pos := .step3 14 }.holds (.parse 64) = false ∧ busy8.holds .acquire = false ∧ busy8.holds .cancel = false ∧
    State.reset.script = [] ∧ rejected [11] = some (.unknownSelector 11) ∧ rejected [9] = some .scriptEnds ∧
    rejected [9, 2, 0, 0] = some .reservedBits ∧ rejected ([10, 4, 0, 14] ++ vd8) = some .statusNeverProduced ∧
    rejected [9, 1, 0, 1] = some (.illFormed .lengthBeyondCapacity) ∧
    [22, 0, 0, 1, 7, 14] = (22 : Octet) :: (octetsOf Config.default.lenOctets 1 ++ ([7] ++ [14])) := by decide

end Sys2Proof.Tests
end

section
/-! The invariant of the machine (10_state R20, R24, R25): every shared update of the state keeps it, hence every operation and
every step does; and it holds at reset. -/

namespace Sys2Proof

/-- A length shorter than a header is at most `CAPACITY`. -/
theorem Config.le_capacity_of_short (c : Config) {n : Nat} (h : n < 14) : n ≤ c.capacity :=
  h.le.trans c.header_fits

end Sys2Proof

namespace Sys2Proof.Machine

/-- From `s` to `t` the configuration stays and the invariant is not lost. -/
def State.Keeps (s t : State) : Prop := t.config = s.config ∧ (s.Inv → t.Inv)

theorem State.Keeps.refl (s : State) : s.Keeps s := ⟨rfl, id⟩

theorem State.Keeps.trans {s t u : State} (h : s.Keeps t) (k : t.Keeps u) : s.Keeps u :=
  ⟨k.1.trans h.1, k.2 ∘ h.2⟩

/-- What the invariant does not speak of, blanked. -/
def State.held (s : State) : State :=
  { s with draws := 0, answers := [], polls := 0, cancelFlag := false, out := none, reads := [], script := [] }

/-- The invariant speaks of what `State.held` leaves. -/
theorem State.held_inv (s : State) : s.held.Inv ↔ s.Inv := ⟨fun h => { h with }, fun h => { h with }⟩

/-- Two states that differ in what the invariant does not speak of only. -/
theorem State.Keeps.of_held {s t : State} (e : t.held = s.held) : s.Keeps t :=
  ⟨(congrArg State.config e : t.held.config = s.held.config), fun h => t.held_inv.1 (e ▸ s.held_inv.2 h)⟩

/-- Nothing handed over and nothing read is nothing that the invariant speaks of. -/
theorem State.keeps_fresh (s : State) : s.Keeps s.fresh := .of_held rfl

/-- A running loop past its start has a source that was initialised. -/
theorem State.Inv.handle_ne {s : State} (h : s.Inv) (h1 : s.pos ≠ .step1) (hp : ∀ why, s.pos ≠ .stopped why) :
    s.handle ≠ .unavailable := fun hu => (h.unstarted hu).2.1.elim h1 (hp _)

/-! ## The moves of the loop -/

/-- What the invariant asks of the values that the loop would hold at position `p`. -/
structure State.Fits (s : State) (p : LoopPos) : Prop where
  loop   : p.Ok s.config
  frame  : ∀ n, p.frameLen = some n → ∀ a, a < n → s.fb.read? a ≠ none
  record : ∀ r, p = .step4 r → r = recordFrom s.fbOctet r.len

/-- The invariant asks it of the loop's own position. -/
theorem State.Inv.fits {s : State} (h : s.Inv) : s.Fits s.pos := { h with }

/-- It asks nothing of a position at which the loop holds neither a length nor a record. -/
theorem State.Fits.of_empty {s : State} {p : LoopPos} (hf : p.frameLen = none) (hr : ∀ r, p ≠ .step4 r) : s.Fits p where
  loop := by
    unfold LoopPos.Ok
    split
    · cases hf
    · cases hf
    · exact absurd rfl (hr _)
    · trivial
  frame := fun n hn => by rw [hf] at hn; cases hn
  record := fun r e => absurd e (hr r)

/-- With an idle block the loop may go to any position whose values fit. -/
theorem State.keeps_pos {s : State} {p : LoopPos} (hi : s.phase = .idle) (hh : s.handle ≠ .unavailable)
    (hp : s.Inv → s.Fits p) : s.Keeps { s with pos := p } :=
  ⟨rfl, fun h => { hp h, h with
    busy := fun hb => absurd (hi.symm.trans hb) (by decide)
    unstarted := fun hu => absurd hu hh }⟩

/-- From step 2 with a frame the loop takes its length to step 3. -/
theorem State.Inv.fits_step3 {s : State} {n : Nat} (h : s.Inv) (hp : s.pos = .step2 (.ok n)) : s.Fits (.step3 n) where
  loop := by have := h.loop; rwa [hp] at this
  frame := fun m hm => h.frame m (by rw [hp]; exact hm)
  record := fun _ hr => by cases hr

/-- The loop may stop, where the block is idle; if the source could not be initialised, for that reason. -/
theorem State.keeps_stop {s : State} {why : StopReason} (hi : s.phase = .idle)
    (hw : s.handle = .unavailable → why = .sourceUnavailable) : s.Keeps (s.stop why) :=
  ⟨rfl, fun h => { (.of_empty rfl (by simp) : s.Fits (.stopped why)), h with
    busy := fun hb => absurd (hi.symm.trans hb) (by decide)
    unstarted := fun hu => by
      obtain ⟨-, -, hl⟩ := h.unstarted hu
      exact ⟨hi, .inr (by rw [State.stop_pos, hw hu]), hl⟩ }⟩

/-- The loop of a source that could not be initialised stops for that reason, its block being idle. -/
theorem State.keeps_stop_unavailable {s : State} (hu : s.handle = .unavailable) :
    s.Keeps (s.fresh.stop .sourceUnavailable) :=
  ⟨rfl, fun h => (s.keeps_fresh.trans (State.keeps_stop (h.unstarted hu).1 fun _ => rfl)).2 h⟩

/-- Step 4 hands over the line of a record of 14 to `CAPACITY` octets. -/
theorem State.keeps_emitLine {s : State} {r : Record} (hi : s.phase = .idle) (hp : s.pos = .step4 r) :
    s.Keeps (s.emitLine r) :=
  ⟨rfl, fun h => { (.of_empty rfl (by simp) : s.Fits .step5), h with
    busy := fun hb => absurd (hi.symm.trans hb) (by decide)
    sink := fun l hl => by
      rcases List.mem_append.1 hl with hl | hl
      · exact h.sink l hl
      · have hr := h.loop
        rw [hp] at hr
        exact ⟨r, hr.1, hr.2, List.mem_singleton.1 hl⟩
    unstarted := fun hu => absurd hu (h.handle_ne (by simp [hp]) (by simp [hp])) }⟩

/-! ## The transaction -/

/-- A request leaves the loop where it is, or takes the current frame's length to step 3. -/
theorem State.Inv.fits_onRequest {s : State} (h : s.Inv) (n : Nat) : s.Fits (s.pos.onRequest n) := by
  rcases LoopPos.onRequest_cases n s.pos with ⟨hp, e⟩ | ⟨-, e⟩ <;> rw [e]
  · exact h.fits_step3 hp
  · exact h.fits

/-- After a request, accepted at no closing position, the loop is not past step 3, nor at step 2 with a frame of that length. -/
theorem LoopPos.onRequest_open {p : LoopPos} (hc : p.closing = false) (n : Nat) :
    (p.onRequest n).beforeStep4 = true ∧ p.onRequest n ≠ .step2 (.ok n) := by
  rcases LoopPos.onRequest_cases n p with ⟨-, e⟩ | ⟨hp, e⟩ <;> rw [e]
  · exact ⟨rfl, by simp⟩
  · refine ⟨?_, hp⟩
    cases p with
    | step4 r => cases hc
    | step5 => cases hc
    | _ => rfl

/-- A request is accepted, at no closing position of the loop. -/
theorem State.keeps_accept {s : State} {n : Nat} (hh : s.handle ≠ .unavailable) (hn : n ≤ s.config.capacity)
    (hc : s.pos.closing = false) : s.Keeps (s.accept n) :=
  ⟨rfl, fun h => { h.fits_onRequest n, h with
    idle := fun hi => by cases hi
    latch := Config.lt_of_le_capacity hn
    busy := fun _ => ⟨hn, rfl, LoopPos.onRequest_open hc n⟩
    unstarted := fun hu => absurd hu hh }⟩

/-- A record that the block responds with is that of the buffer, of a request of 14 octets or more. -/
theorem State.respond_eq_ok {s : State} {n : Nat} {v : Record} (h : (s.respond n).value = .ok v) :
    14 ≤ n ∧ v = recordFrom s.fbOctet n := by
  rw [State.respond_eq] at h
  split_ifs at h with hn
  exact ⟨hn, (Result.ok.inj h).symm⟩

/-- The response to an open request leaves the loop where it is, or takes it to step 4 with the record of the buffer, or to
step 5. -/
theorem State.Inv.fits_afterResponse {s : State} {r : Response} (h : s.Inv) (hb : s.phase = .busy) (hr : s.rsp = some r) :
    s.Fits (s.pos.afterResponse s.reqLen r) := by
  obtain ⟨hle, ho, -, -⟩ := h.busy hb
  have hv : (s.respond s.reqLen).value = r := Option.some.inj (ho.symm.trans hr)
  rcases LoopPos.afterResponse_cases s.reqLen r s.pos with ⟨-, ⟨v, rfl, e⟩ | ⟨-, e⟩⟩ | ⟨-, e⟩ <;> rw [e]
  · obtain ⟨h14, rfl⟩ := State.respond_eq_ok hv
    exact ⟨⟨h14, hle⟩, fun _ hn => (by cases hn), fun v hv => (by cases hv; rfl)⟩
  · exact .of_empty rfl (by simp)
  · exact h.fits

/-- The offered response is taken. -/
theorem State.keeps_take {s : State} {r : Response} (hb : s.phase = .busy) (hr : s.rsp = some r) : s.Keeps (s.take r) :=
  ⟨rfl, fun h => { h.fits_afterResponse hb hr, h with
    idle := fun _ => rfl
    latch := s.freeLatch_lt
    busy := fun hb => by cases hb
    unstarted := fun hu => absurd (hb.symm.trans (h.unstarted hu).1) (by decide) }⟩

/-- An open transaction is abandoned. -/
theorem State.keeps_endTransaction (s : State) : s.Keeps s.endTransaction :=
  ⟨rfl, fun h => { h with
    idle := fun _ => rfl
    latch := s.freeLatch_lt
    busy := fun hb => by cases hb
    unstarted := fun hu => ⟨rfl, (h.unstarted hu).2⟩ }⟩

/-- A busy block offers its response again. -/
theorem State.keeps_offer {s : State} (hb : s.phase = .busy) : s.Keeps (s.offer s.reqLen) :=
  ⟨rfl, fun h => { h with
    idle := fun hi => absurd (hb.symm.trans hi) (by decide)
    busy := fun _ => by
      obtain ⟨hle, -, hp⟩ := h.busy hb
      exact ⟨hle, rfl, hp⟩ }⟩

/-- A whole PARSE of the loop's own, from step 2 or step 3. -/
theorem State.keeps_parseWhole {s t : State} {n : Nat} (hh : s.handle ≠ .unavailable) (hc : s.pos.closing = false)
    (h : s.parseWhole n = .next t) : s.Keeps t := by
  obtain ⟨hn, rfl⟩ := State.parseWhole_cases h
  exact (State.keeps_accept hh hn hc).trans (State.keeps_take rfl rfl)

/-! ## The acquisition -/

/-- A failed acquisition leaves an empty memory and no frame. -/
theorem State.keeps_acqFailed {s : State} (hi : s.phase = .idle) (hh : s.handle ≠ .unavailable) : s.Keeps s.acqFailed :=
  ⟨rfl, fun h => { (.of_empty rfl (by simp) : s.acqFailed.Fits (.step2 .failed)), h with
    memory := Memory.wf_nil _
    busy := fun hb => absurd (hi.symm.trans hb) (by decide)
    unstarted := fun hu => absurd hu hh }⟩

/-- A successful acquisition has written every octet of its frame. -/
theorem State.keeps_acqOk {s : State} {os : List Octet} (hi : s.phase = .idle) (hh : s.handle ≠ .unavailable)
    (hl : os.length ≤ s.config.capacity) : s.Keeps (s.acqOk os) :=
  ⟨rfl, fun h => { h with
    memory := Memory.wf_writeFrom h.memory os 0 (by omega)
    busy := fun hb => absurd (hi.symm.trans hb) (by decide)
    loop := hl
    frame := fun n hn a ha => by
      have e : os.length = n := Option.some.inj hn
      rw [State.acqOk_fb, Memory.read?_writeFrom, if_pos (by omega)]
      simpa [e] using ha
    record := fun _ hr => by cases hr
    unstarted := fun hu => absurd hu hh }⟩

/-- The handle may change to any but that of a source that could not be initialised. -/
theorem State.keeps_handle (s : State) {x : Handle} (hx : x ≠ .unavailable) : s.Keeps { s with handle := x } :=
  ⟨rfl, fun h => { h with unstarted := fun hu => absurd hu hx }⟩

/-- A call of the source while the block is idle. -/
theorem State.keeps_callSource {s t : State} (hi : s.phase = .idle) (hh : s.handle ≠ .unavailable)
    (h : s.callSource = .next t) : s.Keeps t := by
  have hd : s.Keeps s.drawn := .of_held rfl
  rcases State.callSource_cases h with ⟨-, rfl⟩ | ⟨-, ⟨-, rfl⟩ | ⟨r, -, -, rfl⟩ | ⟨os, -, hl, rfl⟩⟩
  · exact State.keeps_acqFailed hi hh
  · exact hd.trans (State.keeps_pos hi hh fun _ => .of_empty rfl (by simp))
  · have hx := r.handleAfter_ne_unavailable hh
    exact hd.trans ((State.keeps_handle _ hx).trans (State.keeps_acqFailed hi hx))
  · exact hd.trans (State.keeps_acqOk hi hh hl)

/-- Step 1 of the loop. -/
theorem State.keeps_acquireStep {s t : State} (h : s.acquireStep = .next t) : s.Keeps t := by
  rcases State.acquireStep_cases h with ⟨-, rfl⟩ | ⟨-, ⟨hu, rfl⟩ | ⟨hh, hi, ⟨-, rfl⟩ | ⟨-, ⟨-, rfl⟩ | hc⟩⟩⟩
  · exact s.keeps_fresh
  · exact State.keeps_stop_unavailable hu
  · exact .refl _
  · exact s.keeps_fresh.trans (State.keeps_stop hi fun hu => absurd hu hh)
  · exact s.keeps_fresh.trans (State.keeps_callSource hi hh hc)

/-- A call leaves the block as it is, and an initialised source initialised. -/
theorem State.callSource_block {s t : State} (hh : s.handle ≠ .unavailable) (h : s.callSource = .next t) :
    t.phase = s.phase ∧ t.handle ≠ .unavailable := by
  rcases State.callSource_cases h with ⟨-, rfl⟩ | ⟨-, ⟨-, rfl⟩ | ⟨r, -, -, rfl⟩ | ⟨os, -, hl, rfl⟩⟩
  · exact ⟨rfl, hh⟩
  · exact ⟨rfl, hh⟩
  · exact ⟨rfl, r.handleAfter_ne_unavailable hh⟩
  · exact ⟨rfl, hh⟩

/-! ## The operations and the step -/

/-- The rest of an iteration after the acquisition returned. -/
theorem State.keeps_finishIteration {s t : State} {a : AcqResult} (hi : s.phase = .idle) (hh : s.handle ≠ .unavailable)
    (hp : s.pos = .step2 a) (h : s.finishIteration a = .next t) : s.Keeps t := by
  rcases State.finishIteration_cases hp h with ⟨-, rfl⟩ | ⟨n, rfl, hn, rfl⟩ | ⟨n, rfl, h14, hn, rfl⟩
  · exact State.keeps_stop hi fun hu => absurd hu hh
  · have hv : (s.accept n).rsp = some .truncated := by simp [State.respond_eq, Nat.not_le.2 hn]
    exact (State.keeps_accept hh (s.config.le_capacity_of_short hn) (by simp [hp, LoopPos.closing])).trans
      ((State.keeps_take rfl hv).trans (State.keeps_pos rfl hh fun _ => .of_empty rfl (by simp)))
  · have hv : (s.accept n).rsp = some (.ok (recordFrom s.fbOctet n)) := by simp [State.respond_eq, h14]
    exact (State.keeps_accept hh hn (by simp [hp, LoopPos.closing])).trans
      ((State.keeps_take rfl hv).trans
        ((State.keeps_emitLine rfl (by simp [hp])).trans (State.keeps_pos rfl hh fun _ => .of_empty rfl (by simp))))

/-- LOOP_ITER keeps the invariant. -/
theorem execLoopIter_keeps {s t : State} (h : execLoopIter s = .next t) : s.Keeps t := by
  rcases execLoopIter_cases h with ⟨-, -, -, rfl⟩ | ⟨-, ha⟩ | ⟨u, a, hh, hi, -, ha, hc, hp, hfin⟩
  · exact .refl _
  · exact State.keeps_acquireStep ha
  · obtain ⟨hph, hhu⟩ := State.callSource_block (s := s.fresh) hh hc
    exact (State.keeps_acquireStep ha).trans (State.keeps_finishIteration (hph.trans hi) hhu hp hfin)

/-- PARSE keeps the invariant, where it is not held. -/
theorem execParse_keeps {n : Nat} {s t : State} (hw : s.holds (.parse n) = false) (h : execParse n s = .next t) :
    s.Keeps t := by
  obtain ⟨hn, ⟨-, rfl⟩ | ⟨hh, ⟨-, rfl⟩ | ⟨-, rfl⟩⟩⟩ := execParse_cases h
  · exact s.keeps_fresh
  · exact s.keeps_fresh.trans (State.keeps_accept hh hn ((Bool.or_eq_false_iff.1 hw).2))
  · exact .refl _

/-- The response rows keep the invariant. -/
theorem State.keeps_takeIfOffered (s : State) (r : Response) : s.Keeps (s.takeIfOffered r) := by
  rcases s.takeIfOffered_cases r with ⟨hb, hr, e⟩ | e <;> rw [e]
  · exact s.keeps_fresh.trans (State.keeps_take hb hr)
  · exact s.keeps_fresh

/-- Every operation that need not wait keeps the invariant. -/
theorem exec_keeps {i : Instr} {s t : State} (hw : s.holds i = false) (h : exec i s = .next t) : s.Keeps t := by
  cases i with
  | checkLen n => simp only [exec, execCheckLen] at h; split at h <;> cases h; exact .of_held rfl
  | decode n w => simp only [exec, execDecode] at h; split at h <;> cases h; exact .of_held rfl
  | makeRecord n w => simp only [exec, execMakeRecord] at h; split at h <;> cases h <;> exact .of_held rfl
  | parse n => exact execParse_keeps hw h
  | rspOk r => cases h; exact s.keeps_takeIfOffered _
  | rspTrunc => cases h; exact s.keeps_takeIfOffered _
  | reset => cases h; exact s.keeps_fresh.trans s.fresh.keeps_endTransaction
  | acquire => exact State.keeps_acquireStep h
  | loopIter => exact execLoopIter_keeps h
  | _ => cases h; exact .of_held rfl

/-- The system's own step keeps the invariant. -/
theorem State.keeps_advance {s t : State} (h : s.advance = .next t) : s.Keeps t := by
  rcases State.advance_cases h with ⟨hu, -, rfl⟩ | ⟨hrun, ⟨hb, ⟨r, hr, rfl⟩ | ⟨-, rfl⟩⟩ |
    ⟨hi, ⟨-, ha⟩ | ⟨hp, rfl⟩ | ⟨n, hp, rfl⟩ | ⟨n, hp, hw⟩ | ⟨r, hp, rfl⟩ | ⟨hp, rfl⟩⟩⟩
  · exact State.keeps_stop_unavailable hu
  · exact s.keeps_fresh.trans (State.keeps_take hb hr)
  · exact s.keeps_fresh.trans (State.keeps_offer hb)
  · exact State.keeps_acquireStep ha
  all_goals have hh : s.handle ≠ .unavailable := fun hu => hrun ⟨hu, by rw [hp]; rfl⟩
  · exact s.keeps_fresh.trans (State.keeps_stop hi fun hu => absurd hu hh)
  · exact s.keeps_fresh.trans (State.keeps_pos hi hh fun h => h.fits_step3 hp)
  · exact s.keeps_fresh.trans (State.keeps_parseWhole hh (by simp [hp, LoopPos.closing]) hw)
  · exact s.keeps_fresh.trans (State.keeps_emitLine hi hp)
  · exact s.keeps_fresh.trans (State.keeps_pos hi hh fun _ => .of_empty rfl (by simp))

/-- Every step keeps the invariant and the configuration. -/
theorem step_keeps {s t : State} (h : step s = .next t) : s.Keeps t := by
  rcases step_cases h with ha | ⟨rest, rfl⟩ | ⟨a, rest, -, rfl⟩ | ⟨i, rest, -, hw, hx⟩
  · exact State.keeps_advance ha
  · exact .of_held rfl
  · exact .of_held rfl
  · have hs : s.Keeps { s with script := rest } := .of_held rfl
    exact hs.trans (exec_keeps (by rw [← hw]; cases i <;> rfl) hx)

/-- Settles O52: by cases on what a step can do, each of the shared updates keeping the invariant. -/
theorem everyStepKeepsTheInvariant : Obligations.EveryStepKeepsTheInvariant := fun _ _ hs h =>
  ⟨(step_keeps h).2 hs, (step_keeps h).1⟩

/-- Settles O53: an idle block, an empty memory, no line, a loop at step 1. -/
theorem resetHasTheInvariant : Obligations.ResetHasTheInvariant := fun c => {
  memory := Memory.wf_nil c
  idle := fun _ => rfl
  latch := Nat.pow_pos (by decide)
  busy := fun hb => by cases hb
  loop := trivial
  frame := fun _ hn => by cases hn
  record := fun _ hr => by cases hr
  sink := fun _ hl => by cases hl
  unstarted := fun hu => by cases hu }

/-- Settles O23: each row of R36 is read off the reset state. -/
theorem resetState : Obligations.ResetState :=
  ⟨rfl, Config.default_widths.1, Config.default_widths.2, rfl, rfl, rfl, rfl, rfl, fun _ => rfl⟩

end Sys2Proof.Machine
end

section
/-! The response is a function of the request and the header octets (10_state R24), and an iteration shows nothing of what the
buffer held before (10_state R33). -/

namespace Sys2Proof.Machine

/-- The response does not depend on what was handed over. -/
@[simp] theorem State.fresh_respond (s : State) (n : Nat) : s.fresh.respond n = s.respond n := rfl

/-- The block's response to a short frame depends on no octet (10_state R24). -/
theorem State.respond_congr_header {s t : State} {n : Nat} (h : 14 ≤ n → SameHeaderOctets s t) :
    s.respond n = t.respond n := by
  by_cases hn : 14 ≤ n
  · exact State.respond_congr (h hn) n
  · rw [State.respond_eq, State.respond_eq, if_neg hn, if_neg hn]

/-- An idle block whose source was initialised accepts a request and offers its response. -/
theorem execParse_idle_offers {n : Nat} {s t : State} (hi : s.phase = .idle) (hh : s.handle ≠ .unavailable)
    (h : execParse n s = .next t) : t.rsp = some (s.respond n).value ∧ t.reads = (s.respond n).reads := by
  obtain ⟨-, ⟨hu, -⟩ | ⟨-, ⟨-, rfl⟩ | ⟨hb, -⟩⟩⟩ := execParse_cases h
  · exact absurd hu hh
  · exact ⟨rfl, rfl⟩
  · exact absurd (hi.symm.trans hb) (by decide)

/-- Settles O14: both blocks offer their response to the request, and the responses are the same. -/
theorem responseDependsOnHeaderOctetsOnly : Obligations.ResponseDependsOnHeaderOctetsOnly := by
  intro n s t u v hs ht hsh hth hsame hu hv
  obtain ⟨hur, hud⟩ := execParse_idle_offers hs hsh hu
  obtain ⟨hvr, hvd⟩ := execParse_idle_offers ht hth hv
  rw [hur, hud, hvr, hvd, State.respond_congr_header hsame]
  exact ⟨rfl, rfl⟩

/-- What an iteration that draws this report shows: the sink's lines, the value handed over, the offsets read, and the loop's
place (41_environment R116). -/
def Report.shown (lines : List (List Char)) (r : Report) : List (List Char) × Option Value × List Nat × LoopPos :=
  match r.frame with
  | none => (lines, some (.stopped .acquisitionFailed), [], .stopped .acquisitionFailed)
  | some os =>
    if 14 ≤ os.length then
      let line := renderLine (recordFrom (frameOctet os) os.length)
      (lines ++ [line], some (.text line), List.range 14, .step1)
    else (lines, some (.response .truncated), [], .step1)

theorem Report.shown_error {r : Report} (h : ∀ os, r ≠ .returned os false) (ls : List (List Char)) :
    r.shown ls = (ls, some (.stopped .acquisitionFailed), [], .stopped .acquisitionFailed) := by
  cases hf : r.frame with
  | none => simp only [Report.shown, hf]
  | some os => exact absurd (Report.frame_eq_some hf) (h os)

theorem Report.shown_short {os : List Octet} (h : os.length < 14) (ls : List (List Char)) :
    (Report.returned os false).shown ls = (ls, some (.response .truncated), [], .step1) := by
  simp [Report.shown, Report.frame, Nat.not_le.2 h]

theorem Report.shown_long {os : List Octet} (h : 14 ≤ os.length) (ls : List (List Char)) :
    (Report.returned os false).shown ls =
      (ls ++ [renderLine (recordFrom (frameOctet os) os.length)],
        some (.text (renderLine (recordFrom (frameOctet os) os.length))), List.range 14, .step1) := by
  simp [Report.shown, Report.frame, h]

/-- A record is made of the first fourteen octets. -/
theorem recordFrom_congr {W V : Nat → Octet} (h : ∀ a, a < 14 → W a = V a) (n : Nat) : recordFrom W n = recordFrom V n := by
  simp [recordFrom, h]

/-- Where a frame of 14 octets or more has been written, the record in the buffer is the frame's. -/
theorem State.recordFrom_acqOk (s : State) {os : List Octet} (h : 14 ≤ os.length) (n : Nat) :
    recordFrom (s.acqOk os).fbOctet n = recordFrom (frameOctet os) n :=
  recordFrom_congr (fun a ha => by rw [State.fbOctet_acqOk, if_pos (by omega)]; rfl) n

/-- A call that goes ahead is made between two iterations. -/
theorem State.MayAcquire.midIteration {s : State} (h : s.MayAcquire) : s.pos.midIteration = false := by
  obtain ⟨-, -, hp | ⟨hp, -⟩⟩ := h <;> rw [hp] <;> rfl

/-- A call of an opened source that has a report: the error, or the frame. -/
theorem State.callSource_report {s t : State} {r : Report} (ho : s.handle = .opened) (ha : s.answer = some r)
    (h : s.callSource = .next t) :
    ((∀ os, r ≠ .returned os false) ∧ t = State.acqFailed { s.drawn with handle := r.handleAfter s.handle }) ∨
    ∃ os, r = .returned os false ∧ t = s.drawn.acqOk os := by
  rcases State.callSource_cases h with ⟨hc, -⟩ | ⟨-, ⟨hn, -⟩ | ⟨r', hr, hf, rfl⟩ | ⟨os, hr, -, rfl⟩⟩
  · rw [ho] at hc; cases hc
  · rw [ha] at hn; cases hn
  · cases ha.symm.trans hr; exact .inl ⟨hf, rfl⟩
  · cases ha.symm.trans hr; exact .inr ⟨os, rfl, rfl⟩

/-- An iteration shows what its report and the lines before it determine. -/
theorem execLoopIter_shows {s t : State} {r : Report} (hm : s.MayAcquire) (ha : s.answer = some r)
    (h : execLoopIter s = .next t) : (t.lines, t.out, t.reads, t.pos) = r.shown s.lines := by
  rcases execLoopIter_cases h with ⟨-, -, hmid, -⟩ | ⟨hn, hacq⟩ | ⟨u, a, -, -, -, -, hc, hp, hfin⟩
  · rw [hm.midIteration] at hmid; cases hmid
  · rw [State.acquireStep_call hm] at hacq
    obtain ⟨-, rfl⟩ | ⟨os, -, rfl⟩ := State.callSource_report (s := s.fresh) hm.2.1 ha hacq
    · exact absurd rfl (hn _)
    · exact absurd rfl (hn _)
  · obtain ⟨hf, rfl⟩ | ⟨os, rfl, rfl⟩ := State.callSource_report (s := s.fresh) hm.2.1 ha hc
    · cases hp
      obtain ⟨-, rfl⟩ | ⟨n, he, -⟩ | ⟨n, he, -⟩ := State.finishIteration_cases rfl hfin
      · exact (Report.shown_error hf _).symm
      · cases he
      · cases he
    · cases hp
      obtain ⟨he, -⟩ | ⟨n, he, hn, rfl⟩ | ⟨n, he, hn, -, rfl⟩ := State.finishIteration_cases rfl hfin
      · cases he
      · cases he
        rw [Report.shown_short hn]
        simp [State.respond_eq, Nat.not_le.2 hn]
      · cases he
        rw [Report.shown_long hn]
        simp [State.respond_eq, hn, State.recordFrom_acqOk]

/-- Settles O54: both iterations show what the one report determines. -/
theorem staleOctetsNeverShow : Obligations.StaleOctetsNeverShow := by
  intro s t u v r hs ht has hat hl hu hv
  have hsu := execLoopIter_shows hs has hu
  have htv := execLoopIter_shows ht hat hv
  rw [← hl, ← hsu] at htv
  simpa only [Prod.mk.injEq] using htv.symm

end Sys2Proof.Machine
end

section
/-! The Capture Loop's steps in order (10_state R28, 41_environment R102 to R107), and the operations that change nothing inside
an iteration or after the end. -/

namespace Sys2Proof.Machine

/-- With nothing placed a step is the system's own. -/
theorem step_of_script_nil {s : State} (h : s.script = []) : step s = s.advance := by
  simp [step, State.fetch, h]

section
/-! The system's own step of an idle block whose source was initialised, at each position of a running loop. -/
variable {s : State} (hi : s.phase = .idle) (hh : s.handle ≠ .unavailable)
include hi hh

theorem State.advance_call (hm : s.MayAcquire) : s.advance = s.fresh.callSource := by
  rw [← State.acquireStep_call hm]
  obtain ⟨-, -, hp | ⟨hp, -⟩⟩ := hm <;> simp [State.advance, hi, hh, hp]

theorem State.advance_step2_failed (hp : s.pos = .step2 .failed) : s.advance = .next (s.fresh.stop .acquisitionFailed) := by
  simp [State.advance, hi, hh, hp]

theorem State.advance_step2_ok {n : Nat} (hp : s.pos = .step2 (.ok n)) : s.advance = .next { s.fresh with pos := .step3 n } := by
  simp [State.advance, hi, hh, hp]

theorem State.advance_step3 {n : Nat} (hp : s.pos = .step3 n) (hn : n ≤ s.config.capacity) :
    s.advance = .next ((s.fresh.accept n).take (s.respond n).value) := by
  simp [State.advance, hi, hh, hp, State.parseWhole, hn]

theorem State.advance_step4 {r : Record} (hp : s.pos = .step4 r) : s.advance = .next (s.fresh.emitLine r) := by
  simp [State.advance, hi, hh, hp]

theorem State.advance_step5 (hp : s.pos = .step5) : s.advance = .next { s.fresh with pos := .step1 } := by
  simp [State.advance, hi, hh, hp]

/-- In the middle of an iteration step 1 has not come yet. -/
theorem State.acquireStep_midIteration (hp : s.pos.midIteration = true) : s.acquireStep = .next s := by
  unfold State.acquireStep
  split
  next why e => rw [e] at hp; cases hp
  next => simp [hi, hh, hp]

theorem execLoopIter_midIteration (hp : s.pos.midIteration = true) : execLoopIter s = .next s := by
  simp [execLoopIter, hi, hh, hp]

end

/-- Where the loop has stopped there is no iteration. -/
theorem execLoopIter_stopped {s : State} {why : StopReason} (hp : s.pos = .stopped why) : execLoopIter s = .next s.fresh := by
  simp [execLoopIter, State.acquireStep_stopped hp, hp, LoopPos.midIteration]

/-- Settles O39: the system's own step, position by position. -/
theorem loopStepsInOrder : Obligations.LoopStepsInOrder := by
  intro s hs hi hh
  rw [step_of_script_nil hs]
  refine ⟨fun os hm ha hl => ?_, fun hp => ?_, fun n hp => ?_, fun n hp hn hc => ?_, fun n hp hn => ?_, fun r hp => ?_,
    fun hp => ?_⟩
  · have ho : s.handle ≠ .closed := by rw [hm.2.1]; decide
    exact ⟨_, (State.advance_call hi hh hm).trans (State.callSource_frame (s := s.fresh) ho ha hl), rfl⟩
  · exact ⟨_, State.advance_step2_failed hi hh hp, rfl, rfl⟩
  · exact ⟨_, State.advance_step2_ok hi hh hp, rfl⟩
  · exact ⟨_, recordFrom s.fbOctet n, State.advance_step3 hi hh hp hc, by simp [hp, State.respond_eq, hn], rfl⟩
  · exact ⟨_, State.advance_step3 hi hh hp (s.config.le_capacity_of_short hn),
      by simp [hp, State.respond_eq, Nat.not_le.2 hn]⟩
  · exact ⟨_, State.advance_step4 hi hh hp, rfl, rfl⟩
  · exact ⟨_, State.advance_step5 hi hh hp, rfl, rfl, rfl, rfl⟩

/-- Settles O37: step 1 changes nothing in the middle of an iteration, and nothing but what was handed over after the end. -/
theorem noIterationInsideAnotherOrAfterTheEnd : Obligations.NoIterationInsideAnotherOrAfterTheEnd := fun _ =>
  ⟨fun hh hi hp => ⟨State.acquireStep_midIteration hi hh hp, execLoopIter_midIteration hi hh hp⟩,
   fun _ hp => ⟨State.acquireStep_stopped hp, execLoopIter_stopped hp⟩⟩

end Sys2Proof.Machine
end

section
/-! The FrameBuffer and the block: DECODE and PARSE read the header octets and no others (20_memory R42, R43), and nothing but an
acquisition writes (R44). -/

namespace Sys2Proof.Machine

/-! ## The offsets read -/

/-- DECODE of a window reads the header's offsets, or nothing of a window shorter than a header (20_memory R42). -/
theorem mem_decodeWindow_reads (W : Window) (a : Nat) : a ∈ (decodeWindow W).reads ↔ 14 ≤ W.len ∧ a < 14 := by
  by_cases h : 14 ≤ W.len
  · simp [decodeWindow_long h, h]
  · simp [decodeWindow_short (Nat.lt_of_not_le h), h]

/-- Making a response of DECODE's result reads nothing more (40_decode R90). -/
theorem State.respond_reads (s : State) (n : Nat) : (s.respond n).reads = (decodeWindow (s.fbWindow n)).reads :=
  List.append_nil _

/-- DECODE, when it goes on, hands over what it got of a legal window. -/
theorem execDecode_cases {n : Nat} {w : Hdr} {s t : State} (h : execDecode n w s = .next t) :
    n ≤ s.config.capacity ∧ t = s.giveRead (decodeWindow (hdrWindow n w)) .header := by
  unfold execDecode at h
  split at h
  next hn => cases h; exact ⟨hn, rfl⟩
  next => cases h

/-- Settles O13: an accepted PARSE and a DECODE both read what DECODE of a window of length `n` reads. -/
theorem onlyHeaderOctetsAreRead : Obligations.OnlyHeaderOctetsAreRead := by
  intro n w s t h
  have hreads : ∀ a, a ∈ t.reads ↔ 14 ≤ n ∧ a < 14 := by
    obtain ⟨hi, hh, hx⟩ | hx := h
    · obtain ⟨-, hr⟩ := execParse_idle_offers hi hh hx
      rw [hr, State.respond_reads]
      exact mem_decodeWindow_reads (s.fbWindow n)
    · obtain ⟨-, rfl⟩ := execDecode_cases hx
      exact mem_decodeWindow_reads (hdrWindow n w)
  refine ⟨hreads, fun a ha => ?_⟩
  obtain ⟨hn, ha⟩ := (hreads a).1 ha
  exact ⟨ha.trans_le hn, ha⟩

/-! ## The writes -/

/-- The buffer of `t` is that of `s`: the same written octets, and the same free values elsewhere. -/
def State.SameBuffer (s t : State) : Prop := t.fb = s.fb ∧ t.fbEpoch = s.fbEpoch

/-- PARSE reads the buffer and does not write it, accepted or not. -/
theorem execParse_sameBuffer {n : Nat} {s t : State} (h : execParse n s = .next t) : s.SameBuffer t := by
  obtain ⟨-, ⟨-, rfl⟩ | ⟨-, ⟨-, rfl⟩ | ⟨-, rfl⟩⟩⟩ := execParse_cases h
  · exact ⟨s.fresh_fb, s.fresh_fbEpoch⟩
  · exact ⟨s.fresh.accept_fb n, s.fresh.accept_fbEpoch n⟩
  · exact ⟨rfl, rfl⟩

/-- Taking a response, or finding none to take, leaves the buffer. -/
theorem State.takeIfOffered_sameBuffer (s : State) (r : Response) : s.SameBuffer (s.takeIfOffered r) := by
  obtain ⟨-, -, e⟩ | e := s.takeIfOffered_cases r <;> rw [e]
  · exact ⟨s.fresh.take_fb r, s.fresh.take_fbEpoch r⟩
  · exact ⟨s.fresh_fb, s.fresh_fbEpoch⟩

/-- CHECK_LEN, when it goes on, hands over the test of a legal length. -/
theorem execCheckLen_cases {n : Nat} {s t : State} (h : execCheckLen n s = .next t) :
    n ≤ s.config.capacity ∧ t = s.give (.bool (lenOk n)) := by
  unfold execCheckLen at h
  split at h
  next hn => cases h; exact ⟨hn, rfl⟩
  next => cases h

/-- MAKE_RECORD hands over a record: of the length given in its operand's range, else of a free one. -/
theorem execMakeRecord_cases {n : Nat} {w : Header} {s t : State} (h : execMakeRecord n w s = .next t) :
    (Config.hdrLen ≤ n ∧ n ≤ s.config.capacity ∧ t = s.give (.record (recordOf n w))) ∨
    (¬ (Config.hdrLen ≤ n ∧ n ≤ s.config.capacity) ∧ t = s.giveFreeRecord w) := by
  unfold execMakeRecord at h
  split at h
  next hn => cases h; exact .inl ⟨hn.1, hn.2, rfl⟩
  next hn => cases h; exact .inr ⟨hn, rfl⟩

/-- Settles O46: the transaction's rows by what each can do; the other operations hand a value over, end a transaction or set the
flag. -/
theorem onlyAcquisitionWritesTheBuffer : Obligations.OnlyAcquisitionWritesTheBuffer := by
  intro i s t h hacq hloop
  cases i with
  | acquire => exact absurd rfl hacq
  | loopIter => exact absurd rfl hloop
  | parse n => exact execParse_sameBuffer h
  | rspOk r => cases h; exact s.takeIfOffered_sameBuffer (.ok r)
  | rspTrunc => cases h; exact s.takeIfOffered_sameBuffer .truncated
  | checkLen n => obtain ⟨-, rfl⟩ := execCheckLen_cases h; exact ⟨rfl, rfl⟩
  | decode n w => obtain ⟨-, rfl⟩ := execDecode_cases h; exact ⟨rfl, rfl⟩
  | makeRecord n w => obtain ⟨-, -, rfl⟩ | ⟨-, rfl⟩ := execMakeRecord_cases h <;> exact ⟨rfl, rfl⟩
  | _ => cases h; exact ⟨rfl, rfl⟩

end Sys2Proof.Machine
end

section
/-! Decoder and encoder undo each other (30_encoding R61, R69, R75; the script's form, log 7). The laws say that each operand
reader reads back what its writer wrote; here, that a reader accepts nothing else, and then both directions for whole operations. -/

namespace Sys2Proof

open Machine

/-- The length of a window or of a request is well formed when the FrameBuffer holds it. -/
theorem windowDefect_eq_none {c : Config} {n : Nat} : windowDefect c n = none ↔ n ≤ c.capacity := by
  simp [windowDefect]

/-- Another length is well formed when `LEN_W` bits hold it. -/
theorem widthDefect_eq_none {c : Config} {n : Nat} : widthDefect c n = none ↔ n < 2 ^ c.lenWidth := by
  simp [widthDefect]

/-- The length of a well-formed window or request reads back. -/
theorem readLen_writeLen_window {c : Config} {n : Nat} (h : windowDefect c n = none) (rest : List Octet) :
    readLen c (writeLen c n ++ rest) = .ok (n, rest) :=
  readLen_writeLen (Config.lt_of_le_capacity (windowDefect_eq_none.1 h)) rest

/-- What the decoder accepts: a row's reading that is well formed. -/
theorem decode_eq_ok_iff {c : Config} {bs rest : List Octet} {i : Instr} :
    decode c bs = .ok (i, rest) ↔
      ∃ sel os, bs = sel :: os ∧ decodeRow c sel os = .ok (i, rest) ∧ i.WellFormed c := by
  constructor
  · intro h
    unfold decode at h
    split at h
    next => cases h
    next sel os =>
      split at h
      next => cases h
      next j r hr =>
        split at h
        next hd => cases h; exact ⟨sel, os, rfl, hr, hd⟩
        next => cases h
  · rintro ⟨sel, os, rfl, hr, hd⟩
    simp only [decode, hr]
    rw [show i.defect c = none from hd]

/-! ## Encoding, then decoding -/

/-- Turning what was read into another value. -/
theorem Reading.map_of {α β : Type} {r : Reading α} {a : α} {rest : List Octet} (f : α → β) (h : r = .ok (a, rest)) :
    Reading.map f r = .ok (f a, rest) := by
  rw [h]; rfl

/-- A response word with status 00 reads back as the response with that record (30_encoding R70). -/
theorem readResponse_ok {c : Config} {r : Record} (h : r.len < 2 ^ c.lenWidth) (rest : List Octet) :
    readResponse c (octetsOf c.rspOctets r.len ++ (writeHeader ⟨r.dst, r.src, r.proto⟩ ++ rest)) = .ok (.rspOk r, rest) := by
  have hk : r.len < 256 ^ c.rspOctets :=
    calc r.len < 2 ^ c.lenWidth := h
      _ ≤ 2 ^ (c.lenWidth + 2) := Nat.pow_le_pow_right (by omega) (by omega)
      _ ≤ 256 ^ c.rspOctets := c.rspOctets_hold
  simp only [readResponse, readNat_of_lt hk, Nat.div_eq_of_lt h]
  exact Reading.map_of _ (readHeader_writeHeader ⟨r.dst, r.src, r.proto⟩ rest)

/-- A response word with status 01 reads as `TruncatedFrame`, whatever its fourteen octets of fields are (30_encoding R70). -/
theorem readResponse_truncated {c : Config} {v : Nat} {w : List Octet} (hv : v / 2 ^ c.lenWidth = 1) (hw : w.length = 14)
    (rest : List Octet) : readResponse c (octetsOf c.rspOctets v ++ (w ++ rest)) = .ok (.rspTrunc, rest) := by
  have hk : v < 256 ^ c.rspOctets :=
    calc v < (v / 2 ^ c.lenWidth + 1) * 2 ^ c.lenWidth := Nat.lt_mul_of_div_lt (Nat.lt_succ_self _) (Nat.pow_pos (by omega))
      _ ≤ 2 ^ (c.lenWidth + 2) := by rw [hv, Nat.pow_add, Nat.mul_comm]; exact Nat.mul_le_mul_left _ (by decide)
      _ ≤ 256 ^ c.rspOctets := c.rspOctets_hold
  have hlen : ¬ (w ++ rest).length < Config.hdrLen := by
    rw [List.length_append, hw, Config.hdrLen]; omega
  simp only [readResponse, readNat_of_lt hk, hv, hlen, if_false]
  rw [show Config.hdrLen = w.length from hw.symm, List.drop_left]

/-- The row of an operation's selector octet reads its operand octets back as the operation. -/
theorem decodeRow_operands {c : Config} {i : Instr} (h : i.WellFormed c) (rest : List Octet) :
    decodeRow c i.selector (i.operands c ++ rest) = .ok (i, rest) := by
  cases i with
  | checkLen n => exact Reading.map_of Instr.checkLen (readLen_writeLen_window h rest)
  | parse n => exact Reading.map_of Instr.parse (readLen_writeLen_window h rest)
  | dec n => exact Reading.map_of Instr.dec (readLen_writeLen (widthDefect_eq_none.1 h) rest)
  | getDst w => exact Reading.map_of Instr.getDst (readHdr_writeHdr w rest)
  | getSrc w => exact Reading.map_of Instr.getSrc (readHdr_writeHdr w rest)
  | getType w => exact Reading.map_of Instr.getType (readHdr_writeHdr w rest)
  | swap16 x => exact Reading.map_of Instr.swap16 (readU16_writeU16 x rest)
  | hex4 v => exact Reading.map_of Instr.hex4 (readU16_writeU16 v rest)
  | decode n w =>
    rw [Instr.operands, List.append_assoc]
    exact Reading.map_of (fun x => Instr.decode x.1 x.2)
      (readBoth_of (readLen_writeLen_window h _) (readHdr_writeHdr w rest))
  | makeRecord n w =>
    rw [Instr.operands, List.append_assoc]
    exact Reading.map_of (fun x => Instr.makeRecord x.1 x.2)
      (readBoth_of (readLen_writeLen (widthDefect_eq_none.1 h) _) (readHeader_writeHeader w rest))
  | renderLine r => exact Reading.map_of Instr.renderLine (readRecord_writeRecord (widthDefect_eq_none.1 h) rest)
  | rspOk r =>
    rw [Instr.operands, List.append_assoc]
    exact readResponse_ok (widthDefect_eq_none.1 h) rest
  | rspTrunc =>
    rw [Instr.operands, List.append_assoc]
    exact readResponse_truncated (Nat.div_self (Nat.pow_pos (by omega))) List.length_replicate rest
  | ntoh16 | le16 | be16 | reset | acquire | loopIter | cancel | hex2 | addr => rfl

/-- Settles O57: the selector octet's row reads the operands back. -/
theorem decodeOfEncode : Obligations.DecodeOfEncode := fun _ _ rest h =>
  decode_eq_ok_iff.2 ⟨_, _, rfl, decodeRow_operands h rest, h⟩

/-- A table word whose octets are an operation's encoding decodes to that operation. -/
theorem decodeTableWord_of_encode {nbits w : Nat} {i : Instr} (he : tableOctets nbits w = encode Config.default i)
    (h : i.WellFormed Config.default) : decodeTableWord nbits w = some i := by
  have hd := decodeOfEncode Config.default i [] h
  rw [List.append_nil, ← he] at hd
  rw [decodeTableWord, hd]

/-- Settles O59: each word's octets are the encoding of its operation, but for the request of 65537. -/
theorem tableWordsDecode : Obligations.TableWordsDecode :=
  ⟨decodeTableWord_of_encode (by decide) (by decide), decodeTableWord_of_encode (by decide) (by decide),
   decodeTableWord_of_encode (by decide) (by decide), decodeTableWord_of_encode (by decide) (by decide),
   decodeTableWord_of_encode (by decide) (by decide), by decide⟩

/-! ## Decoding, then encoding -/

/-- The reader accepts only what the writer writes, with any octets after it. -/
def AcceptsOnly {α : Type} (p : List Octet → Reading α) (w : α → List Octet) : Prop :=
  ∀ ⦃bs : List Octet⦄ ⦃a : α⦄ ⦃rest : List Octet⦄, p bs = .ok (a, rest) → bs = w a ++ rest

theorem readLen_acceptsOnly (c : Config) : AcceptsOnly (readLen c) (writeLen c) := fun _ _ _ h => (readLen_inv h).2

theorem readNat_acceptsOnly (k : Nat) : AcceptsOnly (readNat k 0) (octetsOf k) := by
  intro bs m rest h
  obtain ⟨n, -, rfl, hbs⟩ := readNat_inv h
  rw [hbs, Nat.mul_zero, Nat.zero_add]

theorem readOctet_acceptsOnly : AcceptsOnly readOctet (fun o => [o]) := by
  intro bs o rest h
  unfold readOctet at h
  split at h <;> cases h
  rfl

theorem readOctets2_acceptsOnly : AcceptsOnly readOctets2 (fun x => [x.1, x.2]) := by
  intro bs x rest h
  unfold readOctets2 at h
  split at h <;> cases h
  rfl

theorem readU16_acceptsOnly : AcceptsOnly readU16 writeU16 := by
  intro bs v rest h
  unfold readU16 at h
  split at h <;> cases h
  rw [writeU16, append_upper, append_lower]
  rfl

theorem readAddr_acceptsOnly : AcceptsOnly readAddr writeAddr := by
  intro bs a rest h
  unfold readAddr at h
  split at h <;> cases h
  rfl

theorem readHdr_acceptsOnly : AcceptsOnly readHdr writeHdr := by
  intro bs v rest h
  unfold readHdr at h
  split at h <;> cases h
  next w0 w1 w2 w3 w4 w5 w6 w7 w8 w9 w10 w11 w12 w13 =>
  obtain ⟨e0, e1, e2, e3, e4, e5, e6, e7, e8, e9, e10, e11, e12, e13⟩ :=
    hdrOctet_append w0 w1 w2 w3 w4 w5 w6 w7 w8 w9 w10 w11 w12 w13 _ rfl
  simp only [hdrOctet] at e0 e1 e2 e3 e4 e5 e6 e7 e8 e9 e10 e11 e12 e13
  simp only [writeHdr, e0, e1, e2, e3, e4, e5, e6, e7, e8, e9, e10, e11, e12, e13]
  rfl

/-- One operand after another: the octets are those of the one, then those of the other. -/
theorem AcceptsOnly.both {α β : Type} {p : List Octet → Reading α} {q : List Octet → Reading β} {w : α → List Octet}
    {v : β → List Octet} (hp : AcceptsOnly p w) (hq : AcceptsOnly q v) :
    AcceptsOnly (readBoth p q) (fun x => w x.1 ++ v x.2) := by
  intro bs x rest h
  unfold readBoth at h
  split at h
  next => cases h
  next a mid ha =>
    split at h
    next => cases h
    next b r hb => cases h; rw [hp ha, hq hb, List.append_assoc]

/-- A reading turned into another value comes from a value that was read. -/
theorem AcceptsOnly.of_map {α β : Type} {p : List Octet → Reading α} {w : α → List Octet} {f : α → β} {bs rest : List Octet}
    {b : β} (hp : AcceptsOnly p w) (h : Reading.map f (p bs) = .ok (b, rest)) : ∃ a, b = f a ∧ bs = w a ++ rest := by
  unfold Reading.map at h
  split at h
  next => cases h
  next a r ha => cases h; exact ⟨a, rfl, hp ha⟩

theorem readHeader_acceptsOnly : AcceptsOnly readHeader writeHeader := by
  intro bs h rest hr
  obtain ⟨x, rfl, hbs⟩ := (readAddr_acceptsOnly.both (readAddr_acceptsOnly.both readU16_acceptsOnly)).of_map hr
  exact hbs

theorem readRecord_acceptsOnly (c : Config) : AcceptsOnly (readRecord c) (writeRecord c) := by
  intro bs r rest hr
  obtain ⟨x, rfl, hbs⟩ := ((readLen_acceptsOnly c).both readHeader_acceptsOnly).of_map hr
  exact hbs

section
variable {c : Config} {sel : Octet} {os rest : List Octet} {i : Instr}

/-- What a response word stands for: the record of its fields, or `TruncatedFrame` (30_encoding R70). -/
theorem readResponse_cases (h : readResponse c os = .ok (i, rest)) :
    (∃ r, i = .rspOk r ∧ os = (Instr.rspOk r).operands c ++ rest) ∨
    (i = .rspTrunc ∧ ∃ (v : Nat) (w : List Octet), os = octetsOf c.rspOctets v ++ (w ++ rest) ∧ v / 2 ^ c.lenWidth = 1 ∧
      w.length = 14) := by
  unfold readResponse at h
  split at h
  next => cases h
  next v mid hv =>
    rw [readNat_acceptsOnly _ hv]
    split at h
    next =>
      obtain ⟨hd, rfl, rfl⟩ := readHeader_acceptsOnly.of_map h
      exact .inl ⟨_, rfl, (List.append_assoc ..).symm⟩
    next hs =>
      split at h
      next => cases h
      next hl =>
        cases h
        refine .inr ⟨rfl, v, mid.take 14, by rw [Config.hdrLen, List.take_append_drop], hs, ?_⟩
        exact List.length_take_of_le (Nat.le_of_not_lt hl)
    next => cases h
    next => cases h
    next => cases h

/-- A selector octet and operand octets of one operation are its encoding. -/
theorem cons_eq_encode (hs : sel.toNat = i.selector.toNat) (ho : os = i.operands c ++ rest) :
    sel :: os = encode c i ++ rest := by
  rw [BitVec.eq_of_toNat_eq hs, ho]; rfl

/-- A row whose reader accepts only the operands of its operation. -/
theorem AcceptsOnly.row {α : Type} {p : List Octet → Reading α} {w : α → List Octet} {f : α → Instr} (hp : AcceptsOnly p w)
    (h : Reading.map f (p os) = .ok (i, rest))
    (hf : ∀ a, f a ≠ .rspTrunc ∧ sel.toNat = (f a).selector.toNat ∧ w a = (f a).operands c) :
    i ≠ .rspTrunc ∧ sel :: os = encode c i ++ rest := by
  obtain ⟨a, rfl, rfl⟩ := hp.of_map h
  obtain ⟨hne, hs, hw⟩ := hf a
  exact ⟨hne, cons_eq_encode hs (by rw [hw])⟩

/-- What a row accepts: an operation's encoding, or a truncated response with any length and any fields. -/
theorem decodeRow_cases (h : decodeRow c sel os = .ok (i, rest)) :
    (i ≠ .rspTrunc ∧ sel :: os = encode c i ++ rest) ∨
    (i = .rspTrunc ∧ ∃ (v : Nat) (w : List Octet), sel :: os = 10 :: (octetsOf c.rspOctets v ++ (w ++ rest)) ∧
      v / 2 ^ c.lenWidth = 1 ∧ w.length = 14) := by
  unfold decodeRow at h
  split at h
  next hs => exact .inl ((readLen_acceptsOnly c).row h fun _ => ⟨nofun, hs, rfl⟩)
  next hs => exact .inl (readHdr_acceptsOnly.row h fun _ => ⟨nofun, hs, rfl⟩)
  next hs => exact .inl (readHdr_acceptsOnly.row h fun _ => ⟨nofun, hs, rfl⟩)
  next hs => exact .inl (readOctets2_acceptsOnly.row h fun _ => ⟨nofun, hs, rfl⟩)
  next hs => exact .inl (readU16_acceptsOnly.row h fun _ => ⟨nofun, hs, rfl⟩)
  next hs => exact .inl (readOctets2_acceptsOnly.row h fun _ => ⟨nofun, hs, rfl⟩)
  next hs => exact .inl (readOctets2_acceptsOnly.row h fun _ => ⟨nofun, hs, rfl⟩)
  next hs => exact .inl (readHdr_acceptsOnly.row h fun _ => ⟨nofun, hs, rfl⟩)
  next hs => exact .inl (((readLen_acceptsOnly c).both readHdr_acceptsOnly).row h fun _ => ⟨nofun, hs, rfl⟩)
  next hs => exact .inl ((readLen_acceptsOnly c).row h fun _ => ⟨nofun, hs, rfl⟩)
  next hs =>
    obtain ⟨r, rfl, ho⟩ | ⟨rfl, v, w, ho, hv, hw⟩ := readResponse_cases h
    · exact .inl ⟨nofun, cons_eq_encode hs ho⟩
    · obtain rfl : sel = 10 := BitVec.eq_of_toNat_eq hs
      exact .inr ⟨rfl, v, w, by rw [ho], hv, hw⟩
  next hs => cases h; exact .inl ⟨nofun, cons_eq_encode hs rfl⟩
  next hs => cases h; exact .inl ⟨nofun, cons_eq_encode hs rfl⟩
  next hs => cases h; exact .inl ⟨nofun, cons_eq_encode hs rfl⟩
  next hs => cases h; exact .inl ⟨nofun, cons_eq_encode hs rfl⟩
  next hs => exact .inl (((readLen_acceptsOnly c).both readHeader_acceptsOnly).row h fun _ => ⟨nofun, hs, rfl⟩)
  next hs => exact .inl (readOctet_acceptsOnly.row h fun _ => ⟨nofun, hs, rfl⟩)
  next hs => exact .inl (readU16_acceptsOnly.row h fun _ => ⟨nofun, hs, rfl⟩)
  next hs => exact .inl (readAddr_acceptsOnly.row h fun _ => ⟨nofun, hs, rfl⟩)
  next hs => exact .inl ((readLen_acceptsOnly c).row h fun _ => ⟨nofun, hs, rfl⟩)
  next hs => exact .inl ((readRecord_acceptsOnly c).row h fun _ => ⟨nofun, hs, rfl⟩)
  next => cases h

end

/-- Settles O58: row by row, each reader accepts only what its writer writes. -/
theorem decodeAcceptsOnlyEncodings : Obligations.DecodeAcceptsOnlyEncodings := by
  intro c bs rest i h
  obtain ⟨sel, os, rfl, hrow, hwf⟩ := decode_eq_ok_iff.1 h
  obtain ⟨hne, he⟩ | ⟨ht, hw⟩ := decodeRow_cases hrow
  · exact ⟨hwf, fun _ => he, fun ht => absurd ht hne⟩
  · exact ⟨hwf, fun hne => absurd ht hne, fun _ => hw⟩

end Sys2Proof
end

section
/-! A length above `CAPACITY` is refused by PARSE, and a frame above it by the acquisition that draws it (30_encoding R68). -/

namespace Sys2Proof.Machine

/-- The call of an opened source whose next answer is a frame that the FrameBuffer does not hold. -/
theorem State.callSource_beyond {s : State} {os : List Octet} (ho : s.handle = .opened)
    (ha : s.answer = some (.returned os false)) (hl : s.config.capacity < os.length) :
    s.callSource = .refused .frameBeyondCapacity := by
  simp [State.callSource, ho, ha, Report.frame, Nat.not_le.2 hl]

/-- Where step 1 of the loop is refused outside an iteration, so is the iteration. -/
theorem execLoopIter_refused {s : State} {r : Refusal} (hp : s.pos.midIteration = false) (h : s.acquireStep = .refused r) :
    execLoopIter s = .refused r := by
  simp [execLoopIter, hp, h]

/-- Settles O16: the length test of PARSE, and that of the call, which an acquisition and an iteration reach. -/
theorem beyondCapacityIsRefused : Obligations.BeyondCapacityIsRefused := by
  refine ⟨fun n s hn => if_neg (Nat.not_le.2 hn), fun os s hm ha hl => ?_⟩
  have hcall : s.acquireStep = .refused .frameBeyondCapacity :=
    (State.acquireStep_call hm).trans (State.callSource_beyond hm.2.1 ha hl)
  exact ⟨hcall, execLoopIter_refused hm.midIteration hcall⟩

end Sys2Proof.Machine
end

section
/-! The response port (30_encoding R70 to R72, R75): the fields of a packed address, those of the response vector, and the octets
of its addresses. -/

namespace Sys2Proof.Machine

/-- The octets of an address in 48 bits, octet 0 on top (30_encoding R71). -/
theorem packAddr_octets (a : Addr) :
    (packAddr a).extractLsb' 40 8 = a.o0 ∧ (packAddr a).extractLsb' 32 8 = a.o1 ∧ (packAddr a).extractLsb' 24 8 = a.o2 ∧
    (packAddr a).extractLsb' 16 8 = a.o3 ∧ (packAddr a).extractLsb' 8 8 = a.o4 ∧ (packAddr a).extractLsb' 0 8 = a.o5 := by
  refine ⟨?_, ?_, ?_, ?_, ?_, ?_⟩ <;>
  · apply BitVec.eq_of_getLsbD_eq
    intro i hi
    simp only [packAddr, BitVec.getLsbD_append, BitVec.getLsbD_extractLsb']
    interval_cases i <;> simp

section
variable {w : Nat} (free : BitVec (2 + w + 48 + 48 + 16))

/-- The status is above the length and the 112 bits of the fields, whatever the response is (30_encoding R70, R75). -/
theorem responseWord_status (r : Response) : (responseWord free r).extractLsb' (w + 112) 2 = rspStatus r := by
  cases r <;>
  · rw [responseWord, BitVec.extractLsb'_append_eq_of_le (by omega), BitVec.extractLsb'_append_eq_of_le (by omega),
      BitVec.extractLsb'_append_eq_of_le (by omega), BitVec.extractLsb'_append_eq_of_le (by omega)]
    rw [show w + 112 - 16 - 48 - 48 - w = 0 by omega, BitVec.extractLsb'_eq_self]

theorem responseWord_len (r : Record) : (responseWord free (.ok r)).extractLsb' 112 w = BitVec.ofNat w r.len := by
  rw [responseWord, BitVec.extractLsb'_append_eq_of_le (by decide), BitVec.extractLsb'_append_eq_of_le (by decide),
    BitVec.extractLsb'_append_eq_of_le (by decide)]
  exact BitVec.extractLsb'_append_eq_right

/-- Bits of the destination, which is at bits 111:64. -/
theorem responseWord_dst (r : Record) {k n : Nat} (h : k + n ≤ 48) :
    (responseWord free (.ok r)).extractLsb' (64 + k) n = (packAddr r.dst).extractLsb' k n := by
  rw [responseWord, BitVec.extractLsb'_append_eq_of_le (by omega), BitVec.extractLsb'_append_eq_of_le (by omega),
    BitVec.extractLsb'_append_eq_of_add_le (by omega), show 64 + k - 16 - 48 = k by omega]

/-- Bits of the source, which is at bits 63:16. -/
theorem responseWord_src (r : Record) {k n : Nat} (h : k + n ≤ 48) :
    (responseWord free (.ok r)).extractLsb' (16 + k) n = (packAddr r.src).extractLsb' k n := by
  rw [responseWord, BitVec.extractLsb'_append_eq_of_le (by omega), BitVec.extractLsb'_append_eq_of_add_le (by omega),
    show 16 + k - 16 = k by omega]

theorem responseWord_proto (r : Record) : (responseWord free (.ok r)).extractLsb' 0 16 = r.proto := by
  exact BitVec.extractLsb'_append_eq_right

end

/-- Offsets of header octets pass through `buf_addr` unchanged: its bits hold every offset below `CAPACITY`. -/
theorem State.bufAddrs_toNat {s : State} (h : ∀ a ∈ s.reads, a < 14) : s.bufAddrs.map BitVec.toNat = s.reads := by
  have hfit : 14 ≤ 2 ^ s.config.addrWidth := s.config.header_fits.trans (Config.addrWidth_least _).2
  rw [State.bufAddrs, List.map_map]
  refine (List.map_congr_left fun a ha => ?_).trans s.reads.map_id
  rw [Function.comp_apply, BitVec.toNat_ofNat, Nat.mod_eq_of_lt ((h a ha).trans_le hfit), id]

/-- Settles O55: the widths are the least, and the port shows the response vector's fields at their bits. -/
theorem responsePortLayout : Obligations.ResponsePortLayout := by
  rintro s w rfl
  refine ⟨s.config.lenWidth_least, s.config.addrWidth_least, decide_eq_true_iff, Option.isSome_iff_ne_none,
    State.bufAddrs_toNat, fun r hr => ?_, fun hr => ?_⟩
  · have hport : s.rspPort = responseWord (Config.freeRsp s) (.ok r) := by rw [State.rspPort, hr]
    obtain ⟨hd0, hd1, hd2, hd3, hd4, hd5⟩ := packAddr_octets r.dst
    obtain ⟨hs0, hs1, hs2, hs3, hs4, hs5⟩ := packAddr_octets r.src
    have dst {k : Nat} (hk : k + 8 ≤ 48) := responseWord_dst (Config.freeRsp s) r hk
    have src {k : Nat} (hk : k + 8 ≤ 48) := responseWord_src (Config.freeRsp s) r hk
    rw [hport]
    refine ⟨responseWord_status _ _, fun hl => ?_,
      (dst (k := 40) (by decide)).trans hd0, (dst (k := 32) (by decide)).trans hd1, (dst (k := 24) (by decide)).trans hd2,
      (dst (k := 16) (by decide)).trans hd3, (dst (k := 8) (by decide)).trans hd4, (dst (k := 0) (by decide)).trans hd5,
      (src (k := 40) (by decide)).trans hs0, (src (k := 32) (by decide)).trans hs1, (src (k := 24) (by decide)).trans hs2,
      (src (k := 16) (by decide)).trans hs3, (src (k := 8) (by decide)).trans hs4, (src (k := 0) (by decide)).trans hs5,
      responseWord_proto _ _⟩
    rw [responseWord_len, BitVec.toNat_ofNat, Nat.mod_eq_of_lt hl]
  · rw [State.rspPort, hr]
    exact responseWord_status _ _

end Sys2Proof.Machine
end

section
/-! A step and the script: the operation placed next, run or held, or the octets that are no operation (30_encoding R76; logs 7
and 8). -/

namespace Sys2Proof.Machine

/-- At step 2 with an error, at step 4 and at step 5 the loop has moves of the iteration before to make. -/
theorem LoopPos.closing_iff (p : LoopPos) :
    p.closing = true ↔ p = .step2 .failed ∨ (∃ r, p = .step4 r) ∨ p = .step5 := by
  cases p with
  | step2 a => cases a <;> simp [LoopPos.closing]
  | _ => simp [LoopPos.closing]

/-- The positions inside an iteration. -/
theorem LoopPos.midIteration_iff (p : LoopPos) :
    p.midIteration = true ↔ (∃ a, p = .step2 a) ∨ (∃ n, p = .step3 n) ∨ (∃ r, p = .step4 r) ∨ p = .step5 := by
  cases p <;> simp [LoopPos.midIteration]

/-- Which placed operations wait: a request for an idle block and a loop with nothing left to do, an acquisition inside an
iteration for its end. -/
theorem State.holds_iff (s : State) (i : Instr) :
    s.holds i = true ↔
      ((∃ n, i = .parse n) ∧ (s.phase = .busy ∨ s.pos.closing = true)) ∨
      ((i = .acquire ∨ i = .loopIter) ∧ s.phase = .idle ∧ s.pos.midIteration = true) := by
  cases i <;> simp [State.holds]

/-- A script with octets left is decoded. -/
theorem State.fetch_of_script_ne {s : State} (h : s.script ≠ []) : s.fetch = some (decode s.config s.script) := by
  obtain ⟨sel, os, hs⟩ := List.exists_cons_of_ne_nil h
  rw [State.fetch, hs]

/-- With an operation placed a step is the operation, or the system's own step while the operation waits. -/
theorem step_of_decode_ok {s : State} {i : Instr} {rest : List Octet} (h : decode s.config s.script = .ok (i, rest)) :
    step s = if s.holds i then s.advance else exec i { s with script := rest } := by
  have hne : s.script ≠ [] := by
    obtain ⟨sel, os, hs, -⟩ := decode_eq_ok_iff.1 h
    simp [hs]
  rw [step, State.fetch_of_script_ne hne, h]

/-- With octets placed that are no operation a step is what their defect says. -/
theorem step_of_decode_error {s : State} {e : DecodeError} (hs : s.script ≠ []) (h : decode s.config s.script = .error e) :
    step s = s.notAnOperation e := by
  rw [step, State.fetch_of_script_ne hs, h]

/-! ## Octets that place an answer of the Frame Source -/

/-- The selectors above 21 are no operation's. -/
theorem decode_beyondOperations (c : Config) {sel : Octet} (h : 22 ≤ sel.toNat) (os : List Octet) :
    decode c (sel :: os) = .error (.unknownSelector sel) := by
  have hrow : decodeRow c sel os = .error (.unknownSelector sel) := by
    unfold decodeRow
    split
    case h_22 => rfl
    all_goals omega
  rw [decode, hrow]

/-- The selectors outside 22 to 25 are no answer's. -/
theorem readAnswer_unknown (c : Config) {sel : Octet} (h : sel.toNat < 22 ∨ 25 < sel.toNat) (os : List Octet) :
    readAnswer c (sel :: os) = .error (.unknownSelector sel) := by
  rw [readAnswer]
  split
  case h_5 => rfl
  all_goals omega

/-- A frame's count and its octets read back as the answer with that frame. -/
theorem readFrame_octets {c : Config} {os : List Octet} (h : os.length < 2 ^ c.lenWidth) (rest : List Octet) :
    readFrame c (octetsOf c.lenOctets os.length ++ (os ++ rest)) = .ok (some (.returned os false), rest) := by
  have hr : readLen c (octetsOf c.lenOctets os.length ++ (os ++ rest)) = _ := readLen_writeLen h (os ++ rest)
  simp [readFrame, hr]

/-- A frame whose octets are not all there. -/
theorem readFrame_incomplete {c : Config} {k : Nat} {os : List Octet} (hk : os.length < k) (h : k < 2 ^ c.lenWidth) :
    readFrame c (octetsOf c.lenOctets k ++ os) = .error .scriptEnds := by
  have hr : readLen c (octetsOf c.lenOctets k ++ os) = _ := readLen_writeLen h os
  simp [readFrame, hr, hk]

section
variable {s : State} {sel : Octet} {os : List Octet} (hs : s.script = sel :: os)
include hs

/-- With a selector above those of the operations a step looks for an answer. -/
theorem step_beyondOperations (h : 22 ≤ sel.toNat) : step s = s.placeAnswer :=
  step_of_decode_error (by simp [hs]) (hs ▸ decode_beyondOperations s.config h os)

/-- An answer is placed behind those placed before. -/
theorem step_placesAnswer {a : Answer} {rest : List Octet} (h : 22 ≤ sel.toNat)
    (ha : readAnswer s.config (sel :: os) = .ok (a, rest)) :
    step s = .next { s with answers := s.answers ++ [a], script := rest, out := none, reads := [] } := by
  rw [step_beyondOperations hs h, State.placeAnswer, hs, ha]
  rfl

/-- While an answer's octets are not all there a step is the system's own. -/
theorem step_incompleteAnswer (h : 22 ≤ sel.toNat) (ha : readAnswer s.config (sel :: os) = .error .scriptEnds) :
    step s = s.advance := by
  rw [step_beyondOperations hs h, State.placeAnswer, hs, ha]

/-- Octets that name neither an operation nor an answer are dropped: where the decoder names a selector outside 22 to 25, that is
the script's first octet. -/
theorem State.placeAnswer_unknown {sel' : Octet} (hd : decode s.config s.script = .error (.unknownSelector sel'))
    (h : sel'.toNat < 22 ∨ 25 < sel'.toNat) :
    s.placeAnswer = .next { s.fresh with script := skipRow s.config s.script } := by
  have hsel : sel.toNat < 22 ∨ 25 < sel.toNat := by
    by_contra hn
    rw [hs, decode_beyondOperations s.config (by omega) os] at hd
    cases hd
    exact hn h
  rw [State.placeAnswer, hs, readAnswer_unknown s.config hsel os]

end

/-- Settles O60: a placed operation by whether it waits, an answer by its selector, other octets by why the decoder rejects
them. -/
theorem stepRunsPlacedOperation : Obligations.StepRunsPlacedOperation := by
  intro s
  refine ⟨fun i rest waits _ hd hw => ?_, step_of_script_nil, fun a rest h => ?_, fun k os hk hlt hs => ?_,
    fun e hne he => ?_⟩
  · have hh : waits ↔ s.holds i = true := by
      rw [hw, s.holds_iff, s.pos.closing_iff, s.pos.midIteration_iff]
    rw [step_of_decode_ok hd, hh]
    exact ⟨fun h => if_neg h, fun h => if_pos h⟩
  · obtain ⟨os, rfl, hl, hs⟩ | ⟨rfl, hs⟩ | ⟨rfl, hs⟩ | ⟨rfl, hs⟩ := h
    · exact step_placesAnswer hs (by decide) (readFrame_octets hl rest)
    · exact step_placesAnswer hs (by decide) rfl
    · exact step_placesAnswer hs (by decide) rfl
    · exact step_placesAnswer hs (by decide) rfl
  · exact step_incompleteAnswer hs (by decide) (readFrame_incomplete hk hlt)
  · rw [step_of_decode_error hne he]
    refine ⟨?_, ?_, ?_, ?_⟩
    · rintro rfl; rfl
    · rintro (⟨sel, rfl, hsel⟩ | rfl)
      · obtain ⟨b, os, hs⟩ := List.exists_cons_of_ne_nil hne
        exact State.placeAnswer_unknown hs he hsel
      · rfl
    · rintro rfl; rfl
    · rintro ⟨d, rfl⟩; rfl

end Sys2Proof.Machine
end

section
/-! The conversion and the octet swap (40_decode R83 to R85, R93): each operation hands over its octets put together, in one order
or the other. -/

namespace Sys2Proof.Machine

/-- Two octets put together determine both of them. -/
theorem append_octets_inj {a b a' b' : Octet} : a ++ b = a' ++ b' ↔ a = a' ∧ b = b' := by
  refine ⟨fun h => ⟨?_, ?_⟩, ?_⟩
  · rw [← append_upper a b, h, append_upper]
  · rw [← append_lower a b, h, append_lower]
  · rintro ⟨rfl, rfl⟩; rfl

/-- NTOH16 hands over its octets with the first received on top. -/
theorem exec_ntoh16 (a b : Octet) (s : State) : exec (.ntoh16 a b) s = .next (s.give (.u16 (a ++ b))) := by
  rw [← ntoh16_eq_append]; rfl

/-- BE16 hands over its octets with the one at the lower address on top. -/
theorem exec_be16 (a b : Octet) (s : State) : exec (.be16 a b) s = .next (s.give (.u16 (a ++ b))) :=
  exec_ntoh16 a b s

/-- LE16 hands over its octets with the one at the higher address on top. -/
theorem exec_le16 (a b : Octet) (s : State) : exec (.le16 a b) s = .next (s.give (.u16 (b ++ a))) :=
  exec_ntoh16 b a s

/-- SWAP16 hands over the octets of its word the other way round. -/
theorem exec_swap16 (x : U16) (s : State) :
    exec (.swap16 x) s = .next (s.give (.u16 (x.extractLsb' 0 8 ++ x.extractLsb' 8 8))) := by
  rw [← swap16_eq_append]; rfl

/-- SWAP16 of two octets put together hands them over the other way round. -/
theorem exec_swap16_append (a b : Octet) (s : State) : exec (.swap16 (a ++ b)) s = .next (s.give (.u16 (b ++ a))) := by
  rw [exec_swap16, append_upper, append_lower]

/-- Settles O5: the value is the octets put together. -/
theorem ntoh16IsBigEndian : Obligations.Ntoh16IsBigEndian := fun a b s =>
  ⟨a ++ b, exec_ntoh16 a b s, append_toNat a b, append_upper a b, append_lower a b⟩

/-- Settles O6: putting the octets of a value together gives the value, and what is handed over determines the octets. -/
theorem ntoh16RoundTrip : Obligations.Ntoh16RoundTrip := by
  refine ⟨fun v s => ?_, fun a b a' b' s h => ?_⟩
  · rw [exec_ntoh16, upper_append_lower]; rfl
  · rw [exec_ntoh16, exec_ntoh16] at h
    injection h with h
    have hout : some (Value.u16 (a ++ b)) = some (.u16 (a' ++ b')) := congrArg State.out h
    injection hout with hv
    injection hv with hv
    exact append_octets_inj.1 hv

/-- Settles O7: `y` is the lower octet on top of the upper one, and a word is its upper octet on top of its lower one. -/
theorem swap16ExchangesOctets : Obligations.Swap16ExchangesOctets := by
  intro x s
  refine ⟨x.extractLsb' 0 8 ++ x.extractLsb' 8 8, exec_swap16 x s, append_upper _ _, append_lower _ _, ?_, ?_⟩
  · rw [exec_swap16_append, upper_append_lower]; rfl
  · calc x.extractLsb' 0 8 ++ x.extractLsb' 8 8 = x
        ↔ x.extractLsb' 0 8 ++ x.extractLsb' 8 8 = x.extractLsb' 8 8 ++ x.extractLsb' 0 8 := by rw [upper_append_lower]
      _ ↔ x.extractLsb' 8 8 = x.extractLsb' 0 8 := append_octets_inj.trans ⟨And.right, fun h => ⟨h.symm, h⟩⟩

/-- Settles O8: the little-endian word is `b` on top of `a`, the big-endian word `a` on top of `b`. -/
theorem ntoh16IsSwappedLittleEndianLoad : Obligations.Ntoh16IsSwappedLittleEndianLoad := fun a b s =>
  ⟨b ++ a, a ++ b, exec_le16 a b s, append_toNat b a, exec_be16 a b s, append_toNat a b,
    (exec_ntoh16 a b s).trans (exec_swap16_append b a s).symm, (exec_ntoh16 a b s).trans (exec_be16 a b s).symm⟩

end Sys2Proof.Machine
end

section
/-! The length check, the field extractors and DECODE on a header vector (40_decode R80 to R82, R86 to R88, R93; 30_encoding
R61). -/

namespace Sys2Proof.Machine

/-- The header that a vector carries: destination in bits 111:64, source in bits 63:16, type value in bits 15:0 (30_encoding
R61). -/
def headerOf (h : Hdr) : Header where
  dst := ⟨h.extractLsb' 104 8, h.extractLsb' 96 8, h.extractLsb' 88 8, h.extractLsb' 80 8,
    h.extractLsb' 72 8, h.extractLsb' 64 8⟩
  src := ⟨h.extractLsb' 56 8, h.extractLsb' 48 8, h.extractLsb' 40 8, h.extractLsb' 32 8,
    h.extractLsb' 24 8, h.extractLsb' 16 8⟩
  proto := h.extractLsb' 0 16

/-- The vector that carries a header: its fields, the destination on top (30_encoding R61). -/
def vectorOf (d : Header) : Hdr :=
  d.dst.o0 ++ d.dst.o1 ++ d.dst.o2 ++ d.dst.o3 ++ d.dst.o4 ++ d.dst.o5 ++
    d.src.o0 ++ d.src.o1 ++ d.src.o2 ++ d.src.o3 ++ d.src.o4 ++ d.src.o5 ++
    d.proto.extractLsb' 8 8 ++ d.proto.extractLsb' 0 8

/-- The header of a vector by the vector's octets. -/
theorem headerOf_eq_octets (h : Hdr) : headerOf h =
    ⟨⟨hdrOctet h 0, hdrOctet h 1, hdrOctet h 2, hdrOctet h 3, hdrOctet h 4, hdrOctet h 5⟩,
     ⟨hdrOctet h 6, hdrOctet h 7, hdrOctet h 8, hdrOctet h 9, hdrOctet h 10, hdrOctet h 11⟩,
     hdrOctet h 12 ++ hdrOctet h 13⟩ := by
  rw [hdr_type]; rfl

/-- The vector of a header carries that header. -/
theorem headerOf_vectorOf (d : Header) : headerOf (vectorOf d) = d := by
  obtain ⟨h0, h1, h2, h3, h4, h5, h6, h7, h8, h9, h10, h11, h12, h13⟩ :=
    hdrOctet_append _ _ _ _ _ _ _ _ _ _ _ _ _ _ (vectorOf d) rfl
  rw [headerOf_eq_octets, h0, h1, h2, h3, h4, h5, h6, h7, h8, h9, h10, h11, h12, h13, upper_append_lower]

/-- A vector is that of the header it carries. -/
theorem vectorOf_headerOf (h : Hdr) : vectorOf (headerOf h) = h := by
  rw [headerOf_eq_octets]
  simp only [vectorOf, append_upper, append_lower]
  exact (hdr_eq_append h).symm

/-- Vectors and headers correspond one to one (40_decode R93). -/
theorem headerOf_bijective : Function.Bijective headerOf :=
  Function.bijective_iff_has_inverse.2 ⟨vectorOf, vectorOf_headerOf, headerOf_vectorOf⟩

/-- The destination is got from offsets 0 to 5 of a vector's window (40_decode R81). -/
theorem dstOf_hdrWindow (L : Nat) (h : Hdr) : dstOf (hdrWindow L h) = ⟨(headerOf h).dst, [0, 1, 2, 3, 4, 5]⟩ :=
  addrAt_eq (hdrWindow L h) Config.dstOff

/-- The source is got from offsets 6 to 11 of a vector's window (40_decode R82). -/
theorem srcOf_hdrWindow (L : Nat) (h : Hdr) : srcOf (hdrWindow L h) = ⟨(headerOf h).src, [6, 7, 8, 9, 10, 11]⟩ :=
  addrAt_eq (hdrWindow L h) Config.srcOff

/-- The type value is got from offsets 12 and 13 of a vector's window (40_decode R86). -/
theorem typeOf_hdrWindow (L : Nat) (h : Hdr) : typeOf (hdrWindow L h) = ⟨(headerOf h).proto, [12, 13]⟩ := by
  rw [typeOf_eq, headerOf_eq_octets]; rfl

/-- DECODE of a header vector's window: the header of the vector, or `TruncatedFrame` (40_decode R87, R88). -/
theorem decodeWindow_hdrWindow (n : Nat) (h : Hdr) :
    decodeWindow (hdrWindow n h) = if 14 ≤ n then ⟨.ok (headerOf h), List.range 14⟩ else ⟨.truncated, []⟩ := by
  split_ifs with hn
  · rw [decodeWindow_long (W := hdrWindow n h) hn, headerOf_eq_octets]; rfl
  · exact decodeWindow_short (W := hdrWindow n h) (Nat.lt_of_not_le hn)

/-- DECODE of a legal length hands over what it got of the window. -/
theorem exec_decode_legal {n : Nat} {s : State} (hn : n ≤ s.config.capacity) (h : Hdr) :
    exec (.decode n h) s = .next (s.giveRead (decodeWindow (hdrWindow n h)) .header) := if_pos hn

/-- From 14 octets on DECODE hands over the header of its vector and no other. -/
theorem exec_decode_header_iff {n : Nat} {s : State} (h14 : 14 ≤ n) (hn : n ≤ s.config.capacity) (h : Hdr) (d : Header) :
    (∃ t, exec (.decode n h) s = .next t ∧ t.out = some (.header (.ok d))) ↔ headerOf h = d := by
  simp [exec_decode_legal hn, decodeWindow_hdrWindow, h14]

/-- Settles O1: the length test, whose bound is the header's 14 octets. -/
theorem checkLenComparesWith14 : Obligations.CheckLenComparesWith14 := fun _ _ hn => if_pos hn

/-- Settles O2: the vector's window holds the destination at offset 0. -/
theorem getDstTakesOctets0To5 : Obligations.GetDstTakesOctets0To5 := fun h s =>
  congrArg (fun x => (.next (s.giveRead x .addr) : Out)) (dstOf_hdrWindow Config.hdrLen h)

/-- Settles O3: the vector's window holds the source at offset 6. -/
theorem getSrcTakesOctets6To11 : Obligations.GetSrcTakesOctets6To11 := fun h s =>
  congrArg (fun x => (.next (s.giveRead x .addr) : Out)) (srcOf_hdrWindow Config.hdrLen h)

/-- Settles O4: the octets at offsets 12 and 13, put together, are the vector's low 16 bits. -/
theorem getTypeTakesLow16Bits : Obligations.GetTypeTakesLow16Bits := fun h s =>
  congrArg (fun x => (.next (s.giveRead x .u16) : Out)) (typeOf_hdrWindow Config.hdrLen h)

/-- Settles O9: DECODE of the vector's window, by the length test. -/
theorem decodeGivesHeaderOrTruncated : Obligations.DecodeGivesHeaderOrTruncated := by
  intro n h s hn
  rw [exec_decode_legal hn, decodeWindow_hdrWindow]
  split_ifs <;> rfl

/-- Settles O10: what DECODE hands over is the header of its vector, and these correspond one to one. -/
theorem decodeIsABijection : Obligations.DecodeIsABijection := by
  refine fun n s h14 hn => ⟨fun d => ?_, fun h => ?_⟩
  · simpa only [exec_decode_header_iff h14 hn] using headerOf_bijective.existsUnique d
  · obtain ⟨t, ht⟩ := (exec_decode_header_iff h14 hn h (headerOf h)).2 rfl
    exact ⟨t, headerOf h, ht⟩

/-- Settles O11: both operations test the length first. -/
theorem lengthsOutOfRangeAreRefused : Obligations.LengthsOutOfRangeAreRefused := fun _ _ _ hn =>
  ⟨if_neg (Nat.not_le.2 hn), if_neg (Nat.not_le.2 hn)⟩

end Sys2Proof.Machine
end

section
/-! The transaction (40_decode R89 to R91): a request accepted or held, and the response taken. -/

namespace Sys2Proof.Machine

/-- Where an accepted request of length `n` finds the loop: in step 3 if it is the loop's own, else where it was. -/
theorem LoopPos.onRequest_eq (n : Nat) (p : LoopPos) :
    p.onRequest n = if p = .step2 (.ok n) then .step3 n else p := by
  obtain ⟨hp, e⟩ | ⟨hp, e⟩ := p.onRequest_cases n
  · rw [e, if_pos hp]
  · rw [e, if_neg hp]

/-- What an accepted request makes of the state (40_decode R89, R90). -/
theorem State.accept_eq (s : State) (n : Nat) : s.accept n =
    { s with
      phase := .busy
      reqLen := n
      rsp := some (s.respond n).value
      pos := s.pos.onRequest n
      reads := (s.respond n).reads } := rfl

/-- An idle block whose source was initialised accepts a legal request (40_decode R89). -/
theorem exec_parse_idle {n : Nat} {s : State} (hi : s.phase = .idle) (hh : s.handle ≠ .unavailable)
    (hn : n ≤ s.config.capacity) : exec (.parse n) s = .next (s.fresh.accept n) := by
  simp [exec, execParse, hi, hh, hn]

/-- A busy block holds a legal request (40_decode R89). -/
theorem exec_parse_busy {n : Nat} {s : State} (hb : s.phase = .busy) (hh : s.handle ≠ .unavailable)
    (hn : n ≤ s.config.capacity) : exec (.parse n) s = .next s := by
  simp [exec, execParse, hb, hh, hn]

/-- A placed request waits while the block is busy, and the step is the system's own. -/
theorem step_parse_busy {n : Nat} {rest : List Octet} {s : State} (hb : s.phase = .busy) (hn : n ≤ s.config.capacity)
    (hs : s.script = encode s.config (.parse n) ++ rest) : step s = s.advance := by
  have hd : decode s.config s.script = .ok (.parse n, rest) := by
    rw [hs]
    exact decodeOfEncode s.config (.parse n) rest (windowDefect_eq_none.2 hn)
  have hw : s.holds (.parse n) = true := (s.holds_iff _).2 (.inl ⟨⟨n, rfl⟩, .inl hb⟩)
  rw [step_of_decode_ok hd, if_pos hw]

/-- The system's own step takes the response that a busy block offers (40_decode R91). -/
theorem State.advance_takes {r : Response} {s : State} (hb : s.phase = .busy) (hh : s.handle ≠ .unavailable)
    (hr : s.rsp = some r) : s.advance = .next (s.fresh.take r) := by
  simp [State.advance, hb, hh, hr]

/-- The response that a busy block offers is taken. -/
theorem State.takeIfOffered_offered {r : Response} {s : State} (hb : s.phase = .busy) (hr : s.rsp = some r) :
    s.takeIfOffered r = s.fresh.take r := if_pos ⟨hb, hr⟩

/-- An idle block has no response to take. -/
theorem State.takeIfOffered_idle {s : State} (hi : s.phase = .idle) (r : Response) : s.takeIfOffered r = s.fresh := by
  simp [State.takeIfOffered, hi]

/-- Settles O12: the request is accepted, and the response offered is DECODE's. -/
theorem parseAcceptsAndOffers : Obligations.ParseAcceptsAndOffers := by
  intro n s hi hh hn
  rw [exec_parse_idle hi hh hn, State.accept_eq, State.fresh_respond, State.respond_eq, State.fresh_pos,
    LoopPos.onRequest_eq]
  split_ifs <;> rfl

/-- Settles O15: the placed request waits, and the system's own step takes the response. -/
theorem requestIsHeldWhileBusy : Obligations.RequestIsHeldWhileBusy := by
  refine fun n r rest s hb hh hn => ⟨exec_parse_busy hb hh hn, fun hs hr => ?_⟩
  have hstep : step s = .next (s.fresh.take r) := (step_parse_busy hb hn hs).trans (State.advance_takes hb hh hr)
  refine ⟨s.fresh.take r, hstep, rfl, rfl, rfl, fun hp => ⟨?_, ?_⟩, fun hp => if_neg hp⟩
  · rintro v rfl; exact if_pos hp
  · rintro rfl; exact if_pos hp

/-- Settles O17: the record is the response offered. -/
theorem rspOkIsTaken : Obligations.RspOkIsTaken := fun _ s hb hr =>
  ⟨s.freeLatch, s.freeLatch_lt, congrArg Host.Outcome.next (State.takeIfOffered_offered hb hr)⟩

/-- Settles O18: `TruncatedFrame` is the response offered. -/
theorem rspTruncIsTaken : Obligations.RspTruncIsTaken := fun s hb hr =>
  ⟨s.freeLatch, s.freeLatch_lt, congrArg Host.Outcome.next (State.takeIfOffered_offered hb hr)⟩

/-- Settles O20: the block accepts the request and its response is taken; the block it leaves is idle and offers nothing. -/
theorem transactionAnswersOnceAndReturnsToIdle : Obligations.TransactionAnswersOnceAndReturnsToIdle := by
  intro n s hi hh hn
  have htake : (s.fresh.accept n).takeIfOffered (s.respond n).value = _ := State.takeIfOffered_offered rfl rfl
  refine ⟨s.fresh.accept n, (s.fresh.accept n).fresh.take (s.respond n).value, exec_parse_idle hi hh hn, rfl, rfl, rfl, rfl, rfl,
    ?_, fun r => congrArg Host.Outcome.next (State.takeIfOffered_idle rfl (.ok r)),
    congrArg Host.Outcome.next (State.takeIfOffered_idle rfl .truncated)⟩
  by_cases h14 : 14 ≤ n
  · have hv : (s.respond n).value = .ok (recordFrom s.fbOctet n) := by rw [State.respond_eq, if_pos h14]
    rw [hv] at htake ⊢
    exact .inr ⟨h14, congrArg Host.Outcome.next htake, rfl⟩
  · have hv : (s.respond n).value = .truncated := by rw [State.respond_eq, if_neg h14]
    rw [hv] at htake ⊢
    exact .inl ⟨Nat.lt_of_not_le h14, congrArg Host.Outcome.next htake, rfl⟩

end Sys2Proof.Machine
end

section
/-! The acquisition and the iteration (41_environment R100 to R105, R108, R116): what a call that goes ahead gives, and the iteration
as its steps one after the other. -/

namespace Sys2Proof.Machine

/-! ## The call of the Frame Source -/

/-- Between two iterations, where the flag does not stop the loop, step 1 is the call, of an opened source or a closed one. -/
theorem State.acquireStep_eq_call {s : State} (hi : s.phase = .idle) (hh : s.handle ≠ .unavailable)
    (hp : s.pos = .blocked ∨ (s.pos = .step1 ∧ s.cancelFlag = false)) : s.acquireStep = s.fresh.callSource := by
  obtain hp | ⟨hp, hc⟩ := hp
  · simp [State.acquireStep, hi, hh, hp, LoopPos.midIteration]
  · simp [State.acquireStep, hi, hh, hp, hc, LoopPos.midIteration]

/-- The call of a closed source fails at once (41_environment R108). -/
theorem State.callSource_closed {s : State} (hc : s.handle = .closed) : s.callSource = .next s.acqFailed := by
  simp [State.callSource, hc]

/-- The call of an opened source that has nothing yet blocks (60_exceptions R136). -/
theorem State.callSource_waits {s : State} (ho : s.handle = .opened) (ha : s.answer = none) :
    s.callSource = .next { s.drawn with pos := .blocked } := by
  simp [State.callSource, ho, ha]

/-- A report that is no frame without error carries no frame (41_environment R101). -/
theorem Report.frame_of_error {r : Report} (h : ∀ os, r ≠ .returned os false) : r.frame = none :=
  Option.eq_none_iff_forall_ne_some.2 fun os hf => h os (Report.frame_eq_some hf)

/-- A report leaves the handle, unless it is of a closed source (41_environment R108). -/
theorem Report.handleAfter_cases (r : Report) (h : Handle) :
    r.handleAfter h = h ∨ (r = .sourceClosed ∧ r.handleAfter h = .closed) := by
  cases r with
  | returned os e => exact .inl rfl
  | negative k => exact .inl rfl
  | sourceClosed => exact .inr ⟨rfl, rfl⟩

/-- The call of an opened source whose next answer is a failing report, or of a closed source, which draws none, fails. -/
theorem State.callSource_fails {s d : State}
    (h : (s.handle = .opened ∧ d = s.drawn ∧ ∃ r, s.answer = some r ∧ ∀ os, r ≠ .returned os false) ∨
      (s.handle = .closed ∧ d = s)) :
    ∃ x, s.callSource = .next (State.acqFailed { d with handle := x }) := by
  obtain ⟨ho, rfl, r, ha, hr⟩ | ⟨hc, rfl⟩ := h
  · exact ⟨_, State.callSource_error (by simp [ho]) ha (Report.frame_of_error hr)⟩
  · exact ⟨_, State.callSource_closed hc⟩

/-! ## ACQUIRE and CANCEL -/

/-- Settles O24: the call writes the frame from offset 0 on. -/
theorem acquireWritesTheFrame : Obligations.AcquireWritesTheFrame := by
  intro os s hm ha hl
  have hcall : s.fresh.callSource = .next (s.fresh.drawn.acqOk os) :=
    State.callSource_frame (by simp [hm.2.1]) ha hl
  exact ⟨s.fb.writeFrom 0 os, s.fresh.drawn.acqOk os, rfl, (State.acquireStep_call hm).trans hcall,
    State.fbOctet_acqOk s.fresh.drawn os, fun hw => Memory.wf_writeFrom hw os 0 (by omega)⟩

/-- Settles O25: the call of an opened source whose next report carries no frame. -/
theorem acquireFailure : Obligations.AcquireFailure := by
  intro r s hm ha hr
  refine ⟨r.handleAfter s.handle, r.handleAfter_cases s.handle, (State.acquireStep_call hm).trans ?_⟩
  exact State.callSource_error (s := s.fresh) (by simp [hm.2.1]) ha (Report.frame_of_error hr)

/-- Settles O26: step 1 is the call, and the source is closed. -/
theorem closedSourceFailsTheCall : Obligations.ClosedSourceFailsTheCall := fun s hi hc hp =>
  (State.acquireStep_eq_call hi (by simp [hc]) hp).trans (State.callSource_closed (s := s.fresh) hc)

/-- Settles O28: a blocked call goes ahead whatever the flag is. -/
theorem cancelDoesNotReachABlockedCall : Obligations.CancelDoesNotReachABlockedCall := by
  intro os s hi ho hp hc ha hl
  obtain ⟨m, t, rfl, ht, -⟩ := acquireWritesTheFrame os s ⟨hi, ho, .inl hp⟩ ha hl
  exact ⟨_, ht, rfl, hc⟩

/-- Settles O33: CANCEL writes the flag. -/
theorem cancelSetsTheFlag : Obligations.CancelSetsTheFlag := fun _ => ⟨rfl, rfl⟩

/-! ## LOOP_ITER -/

/-- Where step 1 does not reach step 2 the iteration ends or waits there. -/
theorem execLoopIter_of_acquireStep {s u : State} (hp : s.pos.midIteration = false) (h : s.acquireStep = .next u)
    (hu : ∀ a, u.pos ≠ .step2 a) : execLoopIter s = .next u := by
  rw [execLoopIter, if_neg (by simp [hp]), h]
  dsimp only
  split
  next a ha => exact absurd ha (hu a)
  next => rfl

/-- Where step 1 reaches step 2 the rest of the iteration follows. -/
theorem execLoopIter_of_acquired {s u : State} {a : AcqResult} (hp : s.pos.midIteration = false)
    (h : s.acquireStep = .next u) (hu : u.pos = .step2 a) : execLoopIter s = u.finishIteration a := by
  rw [execLoopIter, if_neg (by simp [hp]), h]
  dsimp only
  rw [hu]

/-- A frame shorter than a header is skipped. -/
theorem State.finishIteration_short {s : State} {n : Nat} (hp : s.pos = .step2 (.ok n)) (hn : n < 14) :
    s.finishIteration (.ok n) = .next { (s.accept n).take .truncated with pos := .step1 } := by
  simp [State.finishIteration, State.parseWhole, s.config.le_capacity_of_short hn, State.respond_eq, Nat.not_le.2 hn, hp]

/-- The line of a longer frame's record is handed over. -/
theorem State.finishIteration_long {s : State} {n : Nat} (hp : s.pos = .step2 (.ok n)) (h14 : 14 ≤ n)
    (hn : n ≤ s.config.capacity) :
    s.finishIteration (.ok n) = .next
      { ((s.accept n).take (.ok (recordFrom s.fbOctet n))).emitLine (recordFrom s.fbOctet n) with pos := .step1 } := by
  simp [State.finishIteration, State.parseWhole, hn, State.respond_eq, h14, hp]

/-- An iteration that draws a frame goes on with it from step 2. -/
theorem execLoopIter_frame {s : State} {os : List Octet} (hm : s.MayAcquire) (ha : s.answer = some (.returned os false))
    (hl : os.length ≤ s.config.capacity) :
    execLoopIter s = (s.fresh.drawn.acqOk os).finishIteration (.ok os.length) := by
  have hcall : s.fresh.callSource = .next (s.fresh.drawn.acqOk os) :=
    State.callSource_frame (by simp [hm.2.1]) ha hl
  exact execLoopIter_of_acquired hm.midIteration ((State.acquireStep_call hm).trans hcall) rfl

/-- Settles O27: both operations are the call, and it blocks. -/
theorem acquireBlocksWithoutReport : Obligations.AcquireBlocksWithoutReport := by
  intro s hm ha
  have hacq : s.acquireStep = .next { s.fresh.drawn with pos := .blocked } :=
    (State.acquireStep_call hm).trans (State.callSource_waits (s := s.fresh) hm.2.1 ha)
  exact ⟨hacq, execLoopIter_of_acquireStep hm.midIteration hacq (by simp)⟩

/-- Settles O29: step 1 tests the flag before it calls. -/
theorem cancelIsTestedBeforeAcquire : Obligations.CancelIsTestedBeforeAcquire := by
  intro s hi hh hp hc
  have hacq : s.acquireStep = .next (s.fresh.stop .cancelled) := by
    simp [State.acquireStep, hi, hh, hp, hc, LoopPos.midIteration]
  exact ⟨hacq, execLoopIter_of_acquireStep (by simp [hp, LoopPos.midIteration]) hacq (by simp), rfl⟩

/-- Settles O34: the frame is in the buffer, and the record the block makes of it is the frame's. -/
theorem iterationEmitsOneLine : Obligations.IterationEmitsOneLine := by
  intro os s hm ha h14 hl
  have hiter := (execLoopIter_frame hm ha hl).trans (State.finishIteration_long rfl h14 hl)
  have hrecord := State.recordFrom_acqOk s.fresh.drawn h14 os.length
  have hreads : ((s.fresh.drawn.acqOk os).respond os.length).reads = [0, 1, 2, 3, 4, 5, 6, 7, 8, 9, 10, 11, 12, 13] := by
    rw [State.respond_eq, if_pos h14]; rfl
  exact ⟨_, hiter, congrArg (fun r => s.lines ++ [renderLine r]) hrecord, rfl, rfl, rfl, rfl, rfl, rfl, rfl, rfl, rfl, hreads,
    State.fbOctet_acqOk s.fresh.drawn os⟩

/-- Settles O35: the block answers `TruncatedFrame` without reading. -/
theorem iterationSkipsShortFrame : Obligations.IterationSkipsShortFrame := by
  intro os s hm ha hn
  have hiter := (execLoopIter_frame hm ha (s.config.le_capacity_of_short hn)).trans (State.finishIteration_short rfl hn)
  have hreads : ((s.fresh.drawn.acqOk os).respond os.length).reads = [] := by
    rw [State.respond_eq, if_neg (Nat.not_le.2 hn)]
  exact ⟨_, hiter, rfl, rfl, hreads, rfl, rfl, rfl, rfl, rfl, rfl, rfl, rfl, rfl, State.fbOctet_acqOk s.fresh.drawn os⟩

/-- Settles O36: the call fails, step 2 stops the loop, and a stopped loop calls nothing. -/
theorem iterationStopsOnAcquisitionError : Obligations.IterationStopsOnAcquisitionError := by
  intro s d hi hp hd
  have hh : s.handle ≠ .unavailable := by obtain ⟨h, -⟩ | ⟨h, -⟩ := hd <;> simp [h]
  have hmid : s.pos.midIteration = false := by obtain h | ⟨h, -⟩ := hp <;> simp [h, LoopPos.midIteration]
  obtain ⟨x, hcall⟩ : ∃ x, s.fresh.callSource = .next (State.acqFailed { d.fresh with handle := x }) :=
    State.callSource_fails (hd.imp (fun ⟨ho, e, hr⟩ => ⟨ho, congrArg State.fresh e, hr⟩)
      fun ⟨hc, e⟩ => ⟨hc, congrArg State.fresh e⟩)
  have hiter := execLoopIter_of_acquired hmid ((State.acquireStep_eq_call hi hh hp).trans hcall) rfl
  have hend := (noIterationInsideAnotherOrAfterTheEnd
    (State.stop (State.acqFailed { d.fresh with handle := x }) .acquisitionFailed)).2 .acquisitionFailed rfl
  refine ⟨_, hiter, rfl, rfl, ?_⟩
  obtain ⟨-, rfl, -⟩ | ⟨-, rfl⟩ := hd <;>
  exact ⟨rfl, rfl, rfl, rfl, rfl, rfl, rfl, rfl, rfl, rfl, rfl, hend⟩

/-! ## The iteration as steps -/

/-- A run takes one step and goes on from there. -/
theorem run_of_step {s t : State} (h : step s = .next t) (k : Nat) : Sys2Proof.core.run (k + 1) s = Sys2Proof.core.run k t := by
  have hc : Sys2Proof.core.step s = .next t := h
  simp only [Host.Core.run, hc]

/-- Between two iterations the system's own step of an idle block is step 1. -/
theorem State.advance_eq_acquireStep {s : State} (hi : s.phase = .idle) (hp : s.pos.midIteration = false) :
    s.advance = s.acquireStep := by
  by_cases hu : s.handle = .unavailable ∧ s.pos.running = true
  · rw [State.acquireStep_unavailable hu.1 ((LoopPos.running_iff _).1 hu.2), State.advance, if_pos hu]
  · rw [State.advance, if_neg hu, hi]
    dsimp only
    split
    case h_1 => rfl
    case h_2 => rfl
    case h_8 hs => exact (State.acquireStep_stopped hs).symm
    all_goals rename_i e; rw [e] at hp; cases hp

/-- A call returns to step 2 or blocks. -/
theorem State.callSource_pos {s t : State} (h : s.callSource = .next t) : t.pos = .blocked ∨ ∃ a, t.pos = .step2 a := by
  obtain ⟨-, rfl⟩ | ⟨-, ⟨-, rfl⟩ | ⟨r, -, -, rfl⟩ | ⟨os, -, -, rfl⟩⟩ := State.callSource_cases h
  · exact .inr ⟨_, rfl⟩
  · exact .inl rfl
  · exact .inr ⟨_, rfl⟩
  · exact .inr ⟨_, rfl⟩

/-- A call leaves the script, the lines and the flag. -/
theorem State.callSource_kept {s t : State} (h : s.callSource = .next t) :
    t.script = s.script ∧ t.lines = s.lines ∧ t.cancelFlag = s.cancelFlag := by
  obtain ⟨-, rfl⟩ | ⟨-, ⟨-, rfl⟩ | ⟨r, -, -, rfl⟩ | ⟨os, -, -, rfl⟩⟩ := State.callSource_cases h <;>
  exact ⟨rfl, rfl, rfl⟩

/-- Step 1 reaches step 2, or leaves the loop between two iterations. -/
theorem State.acquireStep_pos {s t : State} (hp : s.pos.midIteration = false) (h : s.acquireStep = .next t) :
    (∃ a, t.pos = .step2 a) ∨ t.pos.midIteration = false := by
  obtain ⟨-, rfl⟩ | ⟨-, ⟨-, rfl⟩ | ⟨-, -, ⟨hm, -⟩ | ⟨-, ⟨-, rfl⟩ | hc⟩⟩⟩ := State.acquireStep_cases h
  · exact .inr hp
  · exact .inr rfl
  · rw [hp] at hm; cases hm
  · exact .inr rfl
  · obtain hb | ha := State.callSource_pos hc
    · exact .inr (by rw [hb]; rfl)
    · exact .inl ha

section
/-! With nothing placed, the block idle and the source initialised, a run from each step of the loop to step 1 (R116). -/
variable {s : State} (hs : s.script = []) (hi : s.phase = .idle) (hh : s.handle ≠ .unavailable)
include hs hi hh

theorem run_from_step5 (hp : s.pos = .step5) : Sys2Proof.core.run 1 s = .next { s.fresh with pos := .step1 } :=
  run_of_step ((step_of_script_nil hs).trans (State.advance_step5 hi hh hp)) 0

theorem run_from_step4 {r : Record} (hp : s.pos = .step4 r) :
    Sys2Proof.core.run 2 s = .next { (s.fresh.emitLine r).fresh with pos := .step1 } :=
  (run_of_step ((step_of_script_nil hs).trans (State.advance_step4 hi hh hp)) 1).trans (run_from_step5 hs hi hh rfl)

theorem run_from_step3_short {n : Nat} (hp : s.pos = .step3 n) (hn : n < 14) :
    Sys2Proof.core.run 2 s = .next { ((s.fresh.accept n).take .truncated).fresh with pos := .step1 } := by
  have h3 : step s = .next ((s.fresh.accept n).take .truncated) := by
    rw [step_of_script_nil hs, State.advance_step3 hi hh hp (s.config.le_capacity_of_short hn), State.respond_eq,
      if_neg (Nat.not_le.2 hn)]
  exact (run_of_step h3 1).trans (run_from_step5 hs rfl hh (by simp [hp]))

theorem run_from_step3_long {n : Nat} (hp : s.pos = .step3 n) (h14 : 14 ≤ n) (hn : n ≤ s.config.capacity) :
    Sys2Proof.core.run 3 s = .next { (((s.fresh.accept n).take (.ok (recordFrom s.fbOctet n))).fresh.emitLine
      (recordFrom s.fbOctet n)).fresh with pos := .step1 } := by
  have h3 : step s = .next ((s.fresh.accept n).take (.ok (recordFrom s.fbOctet n))) := by
    rw [step_of_script_nil hs, State.advance_step3 hi hh hp hn, State.respond_eq, if_pos h14]
  exact (run_of_step h3 2).trans (run_from_step4 (r := recordFrom s.fbOctet n)
    (s := (s.fresh.accept n).take (.ok (recordFrom s.fbOctet n))) hs rfl hh (by simp [hp]))

/-- The rest of an iteration is at most four steps of the loop, but for what the last one handed over and read. -/
theorem run_finishIteration {t : State} {a : AcqResult} (hp : s.pos = .step2 a) (h : s.finishIteration a = .next t) :
    t.pos.midIteration = false ∧ ∃ k u, k ≤ 4 ∧ Sys2Proof.core.run k s = .next u ∧ u.fresh = t.fresh := by
  obtain ⟨rfl, rfl⟩ | ⟨n, rfl, hn, rfl⟩ | ⟨n, rfl, h14, hn, rfl⟩ := State.finishIteration_cases hp h
  · have h2 := run_of_step ((step_of_script_nil hs).trans (State.advance_step2_failed hi hh hp)) 0
    exact ⟨rfl, 1, _, by decide, h2, rfl⟩
  · have h2 := run_of_step ((step_of_script_nil hs).trans (State.advance_step2_ok hi hh hp)) 2
    have h3 := run_from_step3_short (s := { s.fresh with pos := .step3 n }) hs hi hh rfl hn
    exact ⟨rfl, 3, _, by decide, h2.trans h3, rfl⟩
  · have h2 := run_of_step ((step_of_script_nil hs).trans (State.advance_step2_ok hi hh hp)) 3
    have h3 := run_from_step3_long (s := { s.fresh with pos := .step3 n }) hs hi hh rfl h14 hn
    exact ⟨rfl, 4, _, by decide, h2.trans h3, rfl⟩

end

/-- Settles O38: step 1 is the first step, and the rest of the iteration at most four more. -/
theorem iterationIsItsSteps : Obligations.IterationIsItsSteps := by
  intro s t hs hi hp h
  have hstep {u : State} (hu : s.acquireStep = .next u) : step s = .next u :=
    (step_of_script_nil hs).trans ((State.advance_eq_acquireStep hi hp).trans hu)
  obtain ⟨-, -, hm, -⟩ | ⟨hn, hacq⟩ | ⟨u, a, hh, -, -, hacq, hc, hu, hfin⟩ := execLoopIter_cases h
  · rw [hp] at hm; cases hm
  · have hmid : t.pos.midIteration = false := (State.acquireStep_pos hp hacq).resolve_left fun ⟨a, ha⟩ => hn a ha
    exact ⟨hmid, 1, t, by decide, by decide, run_of_step (hstep hacq) 0, rfl⟩
  · obtain ⟨hph, hhu⟩ := State.callSource_block (s := s.fresh) hh hc
    obtain ⟨hsu, -, -⟩ := State.callSource_kept hc
    obtain ⟨hmid, k, v, hk, hrun, hv⟩ := run_finishIteration (hsu.trans hs) (hph.trans hi) hhu hu hfin
    exact ⟨hmid, k + 1, v, by omega, by omega, (run_of_step (hstep hacq) k).trans hrun, hv⟩

end Sys2Proof.Machine
end

section
/-! The text of a record (41_environment R109 to R113): each rendering hands over its characters and determines what it renders. -/

namespace Sys2Proof.Machine

/-! ## Hexadecimal digits -/

/-- The digit of a 4-bit value is the table's at that place. -/
theorem hexDigits_getElem? (x : BitVec 4) : hexDigits[x.toNat]? = some (hexDigit x) := by
  rw [List.getElem?_eq_getElem x.isLt, hexDigit, List.getD_eq_getElem _ _ x.isLt]

/-- Sixteen different digits. -/
theorem hexDigit_injective : Function.Injective hexDigit := by
  unfold Function.Injective
  decide

/-- The number in an octet's upper four bits. -/
theorem upperNibble_toNat (o : Octet) : (o.extractLsb' 4 4).toNat = o.toNat / 16 := by
  have ho := o.isLt
  rw [BitVec.extractLsb'_toNat, Nat.shiftRight_eq_div_pow]
  omega

/-- The number in an octet's lower four bits. -/
theorem lowerNibble_toNat (o : Octet) : (o.extractLsb' 0 4).toNat = o.toNat % 16 := by
  rw [BitVec.extractLsb'_toNat, Nat.shiftRight_zero]

/-- HEX2's text determines the octet. -/
theorem hex2_injective : Function.Injective hex2 := by
  intro o o' h
  simp only [hex2, List.cons.injEq, hexDigit_injective.eq_iff, and_true] at h
  obtain ⟨hu, hl⟩ := h
  have hu := congrArg BitVec.toNat hu
  have hl := congrArg BitVec.toNat hl
  rw [upperNibble_toNat, upperNibble_toNat] at hu
  rw [lowerNibble_toNat, lowerNibble_toNat] at hl
  exact BitVec.eq_of_toNat_eq (by omega)

/-- HEX4 of two octets put together is HEX2 of the upper one, then of the lower. -/
theorem hex4_append (a b : Octet) : hex4 (a ++ b) = hex2 a ++ hex2 b := by
  rw [hex4, BitVec.extractLsb'_append_eq_of_le (by decide), BitVec.extractLsb'_append_eq_of_le (by decide),
    BitVec.extractLsb'_append_eq_of_add_le (by decide), BitVec.extractLsb'_append_eq_of_add_le (by decide)]
  rfl

/-- HEX4 is HEX2 of the upper octet, then of the lower. -/
theorem hex4_eq_append (v : U16) : hex4 v = hex2 (v.extractLsb' 8 8) ++ hex2 (v.extractLsb' 0 8) := by
  rw [← hex4_append, upper_append_lower]

/-- HEX4's text determines the value. -/
theorem hex4_injective : Function.Injective hex4 := by
  intro v v' h
  rw [hex4_eq_append, hex4_eq_append] at h
  obtain ⟨hu, hl⟩ := List.append_inj h rfl
  rw [← upper_append_lower v, hex2_injective hu, hex2_injective hl, upper_append_lower]

/-- ADDR's text determines the address: all groups have one length, so that they are found from the right. -/
theorem renderAddr_injective : Function.Injective renderAddr := by
  intro a b h
  obtain ⟨h, h5⟩ := List.append_inj' h rfl
  obtain ⟨h, h4⟩ := List.append_inj' h rfl
  obtain ⟨h, h3⟩ := List.append_inj' h rfl
  obtain ⟨h, h2⟩ := List.append_inj' h rfl
  obtain ⟨h0, h1⟩ := List.append_inj' h rfl
  have group {o o' : Octet} (e : ':' :: hex2 o = ':' :: hex2 o') : o = o' := hex2_injective (List.cons_inj_right _ |>.1 e)
  exact (Addr.mk.injEq ..).mpr ⟨hex2_injective h0, group h1, group h2, group h3, group h4, group h5⟩

/-- ADDR's text has six groups of two characters and five colons. -/
theorem renderAddr_length (a : Addr) : (renderAddr a).length = 17 := rfl

/-! ## Decimal digits -/

/-- The character of a decimal digit. -/
def digitChar (d : Nat) : Char := Char.ofNat (48 + d)

/-- The number that digits stand for, most significant first. -/
def decimalValue (ds : List Nat) : Nat := ds.foldl (fun v d => 10 * v + d) 0

/-- Digits of a number without leading zeros, a single one for zero (41_environment R112). -/
structure IsDecimal (ds : List Nat) (n : Nat) : Prop where
  digits  : ∀ d ∈ ds, d < 10
  value   : decimalValue ds = n
  nonempty : ds ≠ []
  leading : ds.head? = some 0 → n = 0 ∧ ds.length = 1

theorem decimalValue_append (ds : List Nat) (d : Nat) : decimalValue (ds ++ [d]) = 10 * decimalValue ds + d :=
  List.foldl_append ..

/-- The table's digit is the character. -/
theorem decDigit_eq {d : Nat} (h : d < 10) : decDigit d = digitChar d := by
  interval_cases d <;> rfl

/-- A number below ten is its one digit. -/
theorem IsDecimal.single {n : Nat} (h : n < 10) : IsDecimal [n] n where
  digits := by simpa using h
  value := by simp [decimalValue]
  nonempty := by simp
  leading := by simp

/-- Another digit behind those of a positive number. -/
theorem IsDecimal.snoc {ds : List Nat} {n d : Nat} (h : IsDecimal ds n) (hn : n ≠ 0) (hd : d < 10) :
    IsDecimal (ds ++ [d]) (10 * n + d) where
  digits := by simpa [or_imp, forall_and, hd] using h.digits
  value := by rw [decimalValue_append, h.value]
  nonempty := by simp
  leading := fun h0 => by
    rw [List.head?_append_of_ne_nil _ h.nonempty] at h0
    exact absurd (h.leading h0).1 hn

/-- With enough fuel the digits are those of the number. -/
theorem decDigits_isDecimal (fuel n : Nat) (h : n < 2 ^ (fuel + 1)) :
    ∃ ds, decDigits fuel n = ds.map digitChar ∧ IsDecimal ds n := by
  induction fuel generalizing n with
  | zero =>
    have h10 : n < 10 := by omega
    exact ⟨[n], by simp [decDigits, decDigit_eq h10], .single h10⟩
  | succ fuel ih =>
    by_cases h10 : n < 10
    · exact ⟨[n], by simp [decDigits, h10, decDigit_eq h10], .single h10⟩
    · obtain ⟨ds, e, hds⟩ := ih (n / 10) (by omega)
      have hsnoc := hds.snoc (d := n % 10) (by omega) (by omega)
      rw [Nat.div_add_mod] at hsnoc
      exact ⟨ds ++ [n % 10], by simp [decDigits, h10, e, decDigit_eq (Nat.mod_lt n (by omega : 10 > 0))], hsnoc⟩

/-- DEC's text is the number's digits. -/
theorem renderDec_isDecimal (n : Nat) : ∃ ds, renderDec n = ds.map digitChar ∧ IsDecimal ds n :=
  decDigits_isDecimal _ n Nat.lt_log2_self

/-- The digit of a character. -/
def charDigit (c : Char) : Nat := c.toNat - 48

theorem charDigit_digitChar {d : Nat} (h : d < 10) : charDigit (digitChar d) = d := by
  interval_cases d <;> rfl

/-- The digits are read off their characters. -/
theorem IsDecimal.map_charDigit {ds : List Nat} {n : Nat} (h : IsDecimal ds n) :
    (ds.map digitChar).map charDigit = ds := by
  rw [List.map_map]
  exact (List.map_congr_left fun d hd => charDigit_digitChar (h.digits d hd)).trans ds.map_id

/-- DEC's text determines the number. -/
theorem renderDec_injective : Function.Injective renderDec := by
  intro n m h
  obtain ⟨ds, hn, hds⟩ := renderDec_isDecimal n
  obtain ⟨es, hm, hes⟩ := renderDec_isDecimal m
  have e : ds = es := by rw [← hds.map_charDigit, ← hes.map_charDigit, ← hn, ← hm, h]
  rw [← hds.value, ← hes.value, e]

/-! ## The line -/

/-- The line's fixed texts have 58 characters, its addresses and its type value 38. -/
theorem renderLine_length (r : Record) : (renderLine r).length = 96 + (renderDec r.len).length := by
  have hpacket : textPacket.length = 8 := rfl
  have hdestination : textDestination.length = 23 := rfl
  have hsource : textSource.length = 11 := rfl
  have hprotocol : textProtocol.length = 15 := rfl
  have htype : (hex4 r.proto).length = 4 := rfl
  simp only [renderLine, List.length_append, List.length_singleton, renderAddr_length]
  omega

/-- The line determines the record: behind DEC's text all lengths are fixed, so that the fields are found from the right. -/
theorem renderLine_injective : Function.Injective renderLine := by
  intro r r' h
  obtain ⟨h, -⟩ := List.append_inj' h rfl
  obtain ⟨h, hproto⟩ := List.append_inj' h rfl
  obtain ⟨h, -⟩ := List.append_inj' h rfl
  obtain ⟨h, hsrc⟩ := List.append_inj' h rfl
  obtain ⟨h, -⟩ := List.append_inj' h rfl
  obtain ⟨h, hdst⟩ := List.append_inj' h rfl
  obtain ⟨h, -⟩ := List.append_inj' h rfl
  have hlen := List.append_cancel_left h
  exact (Record.mk.injEq ..).mpr
    ⟨renderDec_injective hlen, renderAddr_injective hdst, renderAddr_injective hsrc, hex4_injective hproto⟩

/-! ## The operations -/

/-- Settles O40: by whether the length is in the operand's range. -/
theorem makeRecordKeepsFieldsAndLength : Obligations.MakeRecordKeepsFieldsAndLength := by
  refine fun n h s => ⟨fun h14 hn => if_pos ⟨h14, hn⟩, fun hn => ⟨s.freeRecordLen, s.freeRecordLen_le, if_neg ?_⟩⟩
  simp only [Config.hdrLen]
  omega

/-- Settles O41: each digit is the table's at the number in its four bits. -/
theorem hexIsLowercaseAndPadded : Obligations.HexIsLowercaseAndPadded := by
  refine fun o v s => ⟨⟨_, _, rfl, ?_, ?_⟩, ⟨_, _, _, _, ?_, rfl, rfl⟩⟩
  · rw [← upperNibble_toNat]; exact hexDigits_getElem? _
  · rw [← lowerNibble_toNat]; exact hexDigits_getElem? _
  · exact congrArg (fun t => (.next (s.give (.text t)) : Out)) (hex4_eq_append v)

/-- Settles O42: the text is the six groups joined. -/
theorem addrJoinsSixGroups : Obligations.AddrJoinsSixGroups := fun a _ =>
  ⟨hex2 a.o0, hex2 a.o1, hex2 a.o2, hex2 a.o3, hex2 a.o4, hex2 a.o5, _, rfl, rfl, rfl, rfl, rfl, rfl, rfl, rfl, rfl⟩

/-- Settles O43: DEC's text is the characters of the number's digits. -/
theorem decIsDecimalWithoutLeadingZeros : Obligations.DecIsDecimalWithoutLeadingZeros := by
  intro n s
  obtain ⟨ds, e, h⟩ := renderDec_isDecimal n
  exact ⟨ds, congrArg (fun t => (.next (s.give (.text t)) : Out)) e, h.digits, h.value, h.nonempty, h.leading⟩

/-- Settles O44: the line is its fixed texts and fields joined. -/
theorem renderLineLayout : Obligations.RenderLineLayout := fun r _ =>
  ⟨renderDec r.len, renderAddr r.dst, renderAddr r.src, hex4 r.proto, renderLine r, rfl, rfl, rfl, rfl, rfl, rfl,
    renderLine_length r⟩

/-- Settles O45: the two states hand over the two lines, and a line determines its record. -/
theorem lineDeterminesRecord : Obligations.LineDeterminesRecord := by
  intro r r' s h
  injection h with h
  have hout : some (Value.text (renderLine r)) = some (.text (renderLine r')) := congrArg State.out h
  injection hout with hv
  injection hv with hline
  exact renderLine_injective hline

end Sys2Proof.Machine
end

section
/-! What a step can do to the loop, the source and the sink (41_environment R102 to R108, R114; 60_exceptions R129, R130; 70 R153),
said once; what stops the loop, that a stop is final, and which lines are added follow from it. -/

namespace Sys2Proof.Machine

/-! ## The quiet moves -/

/-- Where the loop can be after a move that neither calls the source nor hands over a line nor stops (10_state R28). -/
inductive LoopPos.Follows : LoopPos → LoopPos → Prop where
  | stays (p : LoopPos) : Follows p p
  | requests (n : Nat) : Follows (.step2 (.ok n)) (.step3 n)
  | takesRecord (n : Nat) (r : Record) : Follows (.step3 n) (.step4 r)
  | skips (n : Nat) : Follows (.step3 n) .step5
  | goesBack : Follows .step5 .step1

/-- From `s` to `t` no answer is drawn, no octet written, no line added, the flag kept, and the loop makes at most one of its
quiet moves; a record it takes has the length it was in step 3 with. -/
structure State.Quiet (s t : State) : Prop where
  answers : s.answers <+: t.answers := by exact List.prefix_rfl
  polls   : t.polls = s.polls := by rfl
  lines   : t.lines = s.lines := by rfl
  buffer  : s.SameBuffer t := by exact ⟨rfl, rfl⟩
  flag    : t.cancelFlag = s.cancelFlag := by rfl
  pos     : s.pos.Follows t.pos
  record  : s.Inv → ∀ r, t.pos = .step4 r → s.pos = .step4 r ∨ s.pos = .step3 r.len

/-- A move of an operation on what was handed over and placed is one of the state before. -/
theorem State.Quiet.of_shown {s t : State} {o : Option Value} {rd : List Nat} {os : List Octet}
    (h : State.Quiet { s with out := o, reads := rd, script := os } t) : s.Quiet t :=
  have hk : s.Keeps { s with out := o, reads := rd, script := os } := .of_held rfl
  { h with record := fun hs => h.record (hk.2 hs) }

/-- A move that leaves the loop where it is. -/
theorem State.Quiet.of_pos {s t : State} (h : t.pos = s.pos) (ha : s.answers <+: t.answers := by exact List.prefix_rfl)
    (hp : t.polls = s.polls := by rfl) (hl : t.lines = s.lines := by rfl) (hb : s.SameBuffer t := by exact ⟨rfl, rfl⟩)
    (hf : t.cancelFlag = s.cancelFlag := by rfl) : s.Quiet t :=
  ⟨ha, hp, hl, hb, hf, h ▸ .stays _, fun _ _ hr => .inl (h.symm.trans hr)⟩

/-- A request takes the loop to step 3, or leaves it where it is. -/
theorem State.quiet_accept (s : State) (n : Nat) : s.Quiet (s.accept n) := by
  obtain ⟨hp, e⟩ | ⟨-, e⟩ := LoopPos.onRequest_cases n s.pos
  · exact { pos := by rw [State.accept_pos, e, hp]; exact .requests n
            record := fun _ r hr => by rw [State.accept_pos, e] at hr; cases hr }
  · exact .of_pos e

/-- Taking the offered response: a record's length is that of the request. -/
theorem State.quiet_take {s : State} {r : Response} (hb : s.phase = .busy) (hr : s.rsp = some r) : s.Quiet (s.take r) := by
  obtain ⟨hp, ⟨v, rfl, e⟩ | ⟨-, e⟩⟩ | ⟨-, e⟩ := LoopPos.afterResponse_cases s.reqLen r s.pos
  · refine { pos := by rw [State.take_pos, e, hp]; exact .takesRecord _ v, record := fun hs w hw => ?_ }
    obtain ⟨-, ho, -, -⟩ := hs.busy hb
    obtain ⟨-, rfl⟩ := State.respond_eq_ok (Option.some.inj (ho.symm.trans hr))
    rw [State.take_pos, e] at hw
    cases hw
    exact .inr hp
  · exact { pos := by rw [State.take_pos, e, hp]; exact .skips _
            record := fun _ w hw => by rw [State.take_pos, e] at hw; cases hw }
  · exact .of_pos e

/-- Step 3, a whole transaction of the loop's own. -/
theorem State.quiet_parseWhole {s t : State} {n : Nat} (hp : s.pos = .step3 n) (h : s.parseWhole n = .next t) : s.Quiet t := by
  obtain ⟨-, rfl⟩ := State.parseWhole_cases h
  have hpos : ((s.accept n).take (s.respond n).value).pos = LoopPos.afterResponse n (s.respond n).value (.step3 n) := by
    rw [State.take_pos, State.accept_pos, State.accept_reqLen, hp, LoopPos.onRequest_step3]
  cases hv : (s.respond n).value with
  | ok v =>
    obtain ⟨-, rfl⟩ := State.respond_eq_ok hv
    rw [hv, LoopPos.afterResponse_own] at hpos
    exact { pos := by rw [hpos, hp]; exact .takesRecord _ _
            record := fun _ w hw => by rw [hpos] at hw; cases hw; exact .inr hp }
  | truncated =>
    rw [hv, LoopPos.afterResponse_own] at hpos
    exact { pos := by rw [hpos, hp]; exact .skips _
            record := fun _ w hw => by rw [hpos] at hw; cases hw }

/-- PARSE, accepted or not. -/
theorem execParse_quiet {n : Nat} {s t : State} (h : execParse n s = .next t) : s.Quiet t := by
  obtain ⟨-, ⟨-, rfl⟩ | ⟨-, ⟨-, rfl⟩ | ⟨-, rfl⟩⟩⟩ := execParse_cases h
  · exact .of_pos rfl
  · exact .of_shown (s.fresh.quiet_accept n)
  · exact .of_pos rfl

/-- The response rows, whether the response is the one offered or not. -/
theorem State.takeIfOffered_quiet (s : State) (r : Response) : s.Quiet (s.takeIfOffered r) := by
  obtain ⟨hb, hr, e⟩ | e := s.takeIfOffered_cases r <;> rw [e]
  · exact .of_shown (State.quiet_take (s := s.fresh) hb hr)
  · exact .of_pos rfl

/-- Every operation is quiet but CANCEL and the two that call the source. -/
theorem exec_quiet {i : Instr} {s t : State} (h : exec i s = .next t) (hacq : i ≠ .acquire) (hloop : i ≠ .loopIter)
    (hcan : i ≠ .cancel) : s.Quiet t := by
  cases i with
  | acquire => exact absurd rfl hacq
  | loopIter => exact absurd rfl hloop
  | cancel => exact absurd rfl hcan
  | parse n => exact execParse_quiet h
  | rspOk r => cases h; exact s.takeIfOffered_quiet (.ok r)
  | rspTrunc => cases h; exact s.takeIfOffered_quiet .truncated
  | checkLen n => obtain ⟨-, rfl⟩ := execCheckLen_cases h; exact .of_pos rfl
  | decode n w => obtain ⟨-, rfl⟩ := execDecode_cases h; exact .of_pos rfl
  | makeRecord n w =>
    obtain ⟨-, -, rfl⟩ | ⟨-, rfl⟩ := execMakeRecord_cases h <;> exact .of_pos rfl
  | _ => cases h; exact .of_pos rfl

/-! ## All moves -/

/-- What must be the case for the loop to stop without a call, by the reason (41_environment R102, R103; 60_exceptions R123). -/
def State.StopsFor (s : State) : StopReason → Prop
  | .sourceUnavailable => s.handle = .unavailable
  | .cancelled => s.phase = .idle ∧ s.cancelFlag = true
  | .acquisitionFailed => s.phase = .idle ∧ s.pos = .step2 .failed

/-- The source is about to be called by the loop or an operation: the block is idle, the source was initialised, and the loop is
between two iterations. -/
structure State.BeforeCall (s : State) : Prop where
  idle    : s.phase = .idle
  started : s.handle ≠ .unavailable
  between : s.pos.midIteration = false
  running : ∀ why, s.pos ≠ .stopped why

/-- All that a step can do, `rest` being what it leaves of the script. -/
inductive State.Moves (s t : State) : Prop where
  | quiet (h : s.Quiet t)
  | cancels (rest : List Octet) (hf : s.fetch = some (.ok (.cancel, rest)))
      (ht : t = { s.fresh with script := rest, cancelFlag := true })
  | emits (r : Record) (hp : s.pos = .step4 r) (ht : t = s.fresh.emitLine r)
  | stops (why : StopReason) (rest : List Octet) (hr : ∀ w, s.pos ≠ .stopped w) (hw : s.StopsFor why)
      (ht : t = { s.fresh.stop why with script := rest })
  | calls (rest : List Octet) (hb : s.BeforeCall) (hc : State.callSource { s.fresh with script := rest } = .next t)
  | iterates (rest : List Octet) (u : State) (a : AcqResult) (hf : s.fetch = some (.ok (.loopIter, rest))) (hb : s.BeforeCall)
      (hc : State.callSource { s.fresh with script := rest } = .next u) (hu : u.pos = .step2 a)
      (hfin : u.finishIteration a = .next t)

/-- Step 1 of the loop, by itself or as ACQUIRE. -/
theorem State.moves_acquireStep {s t : State} {rest : List Octet}
    (h : State.acquireStep { s with script := rest } = .next t) : s.Moves t := by
  obtain ⟨-, rfl⟩ | ⟨hr, ⟨hu, rfl⟩ | ⟨hh, hi, ⟨-, rfl⟩ | ⟨hm, ⟨hc, rfl⟩ | hc⟩⟩⟩ := State.acquireStep_cases h
  · exact .quiet (.of_pos rfl)
  · exact .stops .sourceUnavailable rest hr hu rfl
  · exact .quiet (.of_pos rfl)
  · exact .stops .cancelled rest hr ⟨hi, hc⟩ rfl
  · exact .calls rest ⟨hi, hh, hm, hr⟩ hc

/-- A placed LOOP_ITER. -/
theorem State.moves_loopIter {s t : State} {rest : List Octet} (hf : s.fetch = some (.ok (.loopIter, rest)))
    (h : execLoopIter { s with script := rest } = .next t) : s.Moves t := by
  obtain ⟨-, -, -, rfl⟩ | ⟨-, hacq⟩ | ⟨u, a, hh, hi, hm, hacq, hc, hu, hfin⟩ := execLoopIter_cases h
  · exact .quiet (.of_pos rfl)
  · exact State.moves_acquireStep hacq
  · refine .iterates rest u a hf ⟨hi, hh, hm, fun why hp => ?_⟩ hc hu hfin
    rw [State.acquireStep_stopped (s := { s with script := rest }) hp] at hacq
    cases hacq
    cases hp.symm.trans hu

/-- A placed operation. -/
theorem State.moves_exec {i : Instr} {s t : State} {rest : List Octet} (hf : s.fetch = some (.ok (i, rest)))
    (h : exec i { s with script := rest } = .next t) : s.Moves t := by
  by_cases hacq : i = .acquire
  · subst hacq; exact State.moves_acquireStep h
  by_cases hloop : i = .loopIter
  · subst hloop; exact State.moves_loopIter hf h
  by_cases hcan : i = .cancel
  · subst hcan; cases h; exact .cancels rest hf rfl
  exact .quiet (.of_shown (exec_quiet h hacq hloop hcan))

/-- The system's own step. -/
theorem State.moves_advance {s t : State} (h : s.advance = .next t) : s.Moves t := by
  obtain ⟨hu, hr, rfl⟩ | ⟨-, ⟨hb, ⟨r, hr, rfl⟩ | ⟨-, rfl⟩⟩ |
    ⟨hi, ⟨-, ha⟩ | ⟨hp, rfl⟩ | ⟨n, hp, rfl⟩ | ⟨n, hp, hw⟩ | ⟨r, hp, rfl⟩ | ⟨hp, rfl⟩⟩⟩ := State.advance_cases h
  · exact .stops .sourceUnavailable s.script hr hu rfl
  · exact .quiet (.of_shown (State.quiet_take (s := s.fresh) hb hr))
  · exact .quiet (.of_pos rfl)
  · exact State.moves_acquireStep ha
  · exact .stops .acquisitionFailed s.script (by simp [hp]) ⟨hi, hp⟩ rfl
  · exact .quiet { pos := hp ▸ .requests n, record := fun _ _ hr => by cases hr }
  · exact .quiet (.of_shown (State.quiet_parseWhole (s := s.fresh) hp hw))
  · exact .emits r hp rfl
  · exact .quiet { pos := hp ▸ .goesBack, record := fun _ _ hr => by cases hr }

/-- Every step is one of the moves. -/
theorem step_moves {s t : State} (h : step s = .next t) : s.Moves t := by
  obtain ha | ⟨rest, rfl⟩ | ⟨a, rest, -, rfl⟩ | ⟨i, rest, hf, -, hx⟩ := step_cases h
  · exact State.moves_advance ha
  · exact .quiet (.of_pos rfl)
  · exact .quiet (.of_pos rfl (List.prefix_append _ _))
  · exact State.moves_exec hf hx

/-! ## A stop, and the flag -/

/-- A loop that has stopped makes no move. -/
theorem LoopPos.Follows.of_stopped {p q : LoopPos} {why : StopReason} (h : p.Follows q) (hp : p = .stopped why) :
    q = .stopped why := by
  subst hp
  cases h
  rfl

/-- No quiet move stops the loop. -/
theorem LoopPos.Follows.not_stopped {p q : LoopPos} {why : StopReason} (h : p.Follows q) (hq : q = .stopped why) :
    p = .stopped why := by
  subst hq
  cases h
  rfl

/-- Settles O48: a stopped loop is past every move but the quiet ones and CANCEL. -/
theorem stoppedIsFinal : Obligations.StoppedIsFinal := by
  intro s t why h hp
  cases step_moves h with
  | quiet q => exact ⟨q.pos.of_stopped hp, q.answers, q.polls, q.lines, q.buffer⟩
  | cancels rest hf ht => subst ht; exact ⟨hp, List.prefix_rfl, rfl, rfl, rfl, rfl⟩
  | emits r hp' ht => cases hp.symm.trans hp'
  | stops w rest hr hw ht => exact absurd hp (hr why)
  | calls rest hb hc => exact absurd hp (hb.running why)
  | iterates rest u a hf hb hc hu hfin => exact absurd hp (hb.running why)

/-- The rest of an iteration keeps the flag. -/
theorem State.finishIteration_cancelFlag {s t : State} {a : AcqResult} (hp : s.pos = .step2 a)
    (h : s.finishIteration a = .next t) : t.cancelFlag = s.cancelFlag := by
  obtain ⟨rfl, rfl⟩ | ⟨n, rfl, hn, rfl⟩ | ⟨n, rfl, h14, hn, rfl⟩ := State.finishIteration_cases hp h <;> rfl

/-- A step keeps the flag, or runs a placed CANCEL and sets it. -/
theorem step_cancelFlag {s t : State} (h : step s = .next t) :
    t.cancelFlag = s.cancelFlag ∨ (t.cancelFlag = true ∧ ∃ rest, s.fetch = some (.ok (.cancel, rest))) := by
  cases step_moves h with
  | quiet q => exact .inl q.flag
  | cancels rest hf ht => subst ht; exact .inr ⟨rfl, rest, hf⟩
  | emits r hp ht => subst ht; exact .inl rfl
  | stops why rest hr hw ht => subst ht; exact .inl rfl
  | calls rest hb hc =>
    obtain ⟨-, -, hflag⟩ := State.callSource_kept hc
    exact .inl hflag
  | iterates rest u a hf hb hc hu hfin =>
    obtain ⟨-, -, hflag⟩ := State.callSource_kept hc
    exact .inl ((State.finishIteration_cancelFlag hu hfin).trans hflag)

/-- Settles O49: by what a step does to the flag. -/
theorem cancelFlagIsNeverCleared : Obligations.CancelFlagIsNeverCleared := by
  intro s t h
  obtain e | ⟨hset, hf⟩ := step_cancelFlag h
  · exact ⟨fun hs => e.trans hs, fun hs ht => by rw [e, hs] at ht; cases ht⟩
  · exact ⟨fun _ => hset, fun _ _ => hf⟩

/-- A call that failed found the source closed, or drew a report that is no frame without error. -/
theorem State.callSource_failed {s t : State} (h : s.callSource = .next t) (hp : t.pos = .step2 .failed) :
    s.handle = .closed ∨ ∃ r, s.answer = some r ∧ ∀ os, r ≠ .returned os false := by
  obtain ⟨hc, -⟩ | ⟨-, ⟨-, rfl⟩ | ⟨r, hr, hn, -⟩ | ⟨os, -, -, rfl⟩⟩ := State.callSource_cases h
  · exact .inl hc
  · cases hp
  · exact .inr ⟨r, hr, hn⟩
  · cases hp

/-- The rest of an iteration stops the loop on an error only, and then does nothing else. -/
theorem State.finishIteration_stopped {s t : State} {a : AcqResult} {why : StopReason} (hp : s.pos = .step2 a)
    (h : s.finishIteration a = .next t) (ht : t.pos = .stopped why) :
    a = .failed ∧ why = .acquisitionFailed ∧ t = s.stop .acquisitionFailed := by
  obtain ⟨rfl, rfl⟩ | ⟨n, rfl, hn, rfl⟩ | ⟨n, rfl, h14, hn, rfl⟩ := State.finishIteration_cases hp h
  · cases ht; exact ⟨rfl, rfl, rfl⟩
  · cases ht
  · cases ht

/-- Settles O47: the moves that stop a running loop are the stop itself and an iteration whose call fails. -/
theorem whatStopsTheLoop : Obligations.WhatStopsTheLoop := by
  intro s t why hs h hrun ht
  cases step_moves h with
  | quiet q => exact absurd (q.pos.not_stopped ht) (hrun why)
  | cancels rest hf e => subst e; exact absurd ht (hrun why)
  | emits r hp e => subst e; cases ht
  | stops w rest hr hw e =>
    subst e
    cases ht
    have hi : s.phase = .idle := by
      cases why with
      | sourceUnavailable => exact (hs.unstarted hw).1
      | cancelled => exact hw.1
      | acquisitionFailed => exact hw.1
    exact ⟨hi, hi, rfl, by rintro rfl; exact hw, by rintro rfl; exact hw.2, by rintro rfl; exact .inl hw.2⟩
  | calls rest hb hc =>
    obtain hp | ⟨a, hp⟩ := State.callSource_pos hc <;> cases hp.symm.trans ht
  | iterates rest u a hf hb hc hu hfin =>
    obtain ⟨rfl, rfl, rfl⟩ := State.finishIteration_stopped hu hfin ht
    obtain ⟨hph, -⟩ := State.callSource_block (s := { s.fresh with script := rest }) hb.started hc
    obtain ⟨-, hl, -⟩ := State.callSource_kept hc
    have hfail := State.callSource_failed (s := { s.fresh with script := rest }) hc hu
    exact ⟨hb.idle, hph.trans hb.idle, hl, by simp, by simp, fun _ => .inr ⟨⟨rest, hf⟩, hfail⟩⟩

/-! ## The lines -/

/-- A call after which the loop holds a frame's length has drawn a frame of that many octets. -/
theorem State.callSource_draws {s t : State} {n : Nat} (h : s.callSource = .next t) (hn : t.pos.frameLen = some n) :
    ∃ os, s.answer = some (.returned os false) ∧ n = os.length ∧ t = s.drawn.acqOk os := by
  obtain ⟨-, rfl⟩ | ⟨-, ⟨-, rfl⟩ | ⟨r, -, -, rfl⟩ | ⟨os, ha, -, rfl⟩⟩ := State.callSource_cases h
  · cases hn
  · cases hn
  · cases hn
  · cases hn; exact ⟨os, ha, rfl, rfl⟩

/-- The current frame length is not changed by a quiet move, but where the response is taken. -/
theorem LoopPos.Follows.frameLen {p q : LoopPos} {n : Nat} (h : p.Follows q) (hq : q.frameLen = some n) :
    p.frameLen = some n := by
  cases h with
  | stays => exact hq
  | requests => exact hq
  | takesRecord => cases hq
  | skips => cases hq
  | goesBack => cases hq

/-- After the rest of an iteration the loop holds neither a frame length nor a record. -/
theorem State.finishIteration_empty {s t : State} {a : AcqResult} (hp : s.pos = .step2 a)
    (h : s.finishIteration a = .next t) : t.pos.frameLen = none ∧ ∀ r, t.pos ≠ .step4 r := by
  obtain ⟨rfl, rfl⟩ | ⟨n, rfl, hn, rfl⟩ | ⟨n, rfl, h14, hn, rfl⟩ := State.finishIteration_cases hp h <;>
  exact ⟨rfl, by simp⟩

/-- The rest of an iteration adds no line, or that of a frame of 14 octets or more. -/
theorem State.finishIteration_lines {s t : State} {a : AcqResult} (hp : s.pos = .step2 a)
    (h : s.finishIteration a = .next t) :
    t.lines = s.lines ∨ ∃ n, s.pos.frameLen = some n ∧ 14 ≤ n ∧ t.answers = s.answers ∧ t.polls = s.polls ∧
      t.lines = s.lines ++ [renderLine (recordFrom s.fbOctet n)] := by
  obtain ⟨rfl, rfl⟩ | ⟨n, rfl, hn, rfl⟩ | ⟨n, rfl, h14, hn, rfl⟩ := State.finishIteration_cases hp h
  · exact .inl rfl
  · exact .inl rfl
  · exact .inr ⟨n, by rw [hp]; rfl, h14, rfl, rfl, rfl⟩

/-- A step adds no line, or that of the record at step 4, or a placed iteration's. -/
theorem step_lines {s t : State} (hs : s.Inv) (h : step s = .next t) :
    t.lines = s.lines ∨
      (∃ r, s.pos = .step4 r ∧ 14 ≤ r.len ∧ r = recordFrom s.fbOctet r.len ∧ t.lines = s.lines ++ [renderLine r]) ∨
      (∃ os rest, s.fetch = some (.ok (.loopIter, rest)) ∧ s.answer = some (.returned os false) ∧
        t.answers = s.drawn.answers ∧ t.polls = s.drawn.polls ∧ 14 ≤ os.length ∧
        t.lines = s.lines ++ [renderLine (recordFrom (frameOctet os) os.length)]) := by
  cases step_moves h with
  | quiet q => exact .inl q.lines
  | cancels rest hf ht => subst ht; exact .inl rfl
  | emits r hp ht =>
    subst ht
    have hok := hs.loop
    rw [hp] at hok
    exact .inr (.inl ⟨r, hp, hok.1, hs.record r hp, rfl⟩)
  | stops why rest hr hw ht => subst ht; exact .inl rfl
  | calls rest hb hc =>
    obtain ⟨-, hl, -⟩ := State.callSource_kept hc
    exact .inl hl
  | iterates rest u a hf hb hc hu hfin =>
    obtain ⟨-, hl, -⟩ := State.callSource_kept hc
    obtain e | ⟨n, hn, h14, ha, hp, e⟩ := State.finishIteration_lines hu hfin
    · exact .inl (e.trans hl)
    · obtain ⟨os, hans, rfl, rfl⟩ := State.callSource_draws hc hn
      rw [State.recordFrom_acqOk _ h14] at e
      exact .inr (.inr ⟨os, rest, hf, hans, ha, hp, h14, e⟩)

/-- The loop comes to step 4 from step 3 only, with a record of the current frame's length. -/
theorem step_comesToStep4 {s t : State} (hs : s.Inv) (h : step s = .next t) {r : Record} (hr : t.pos = .step4 r) :
    s.pos = .step4 r ∨ s.pos.frameLen = some r.len := by
  cases step_moves h with
  | quiet q => exact (q.record hs r hr).imp_right fun hp => by rw [hp]; rfl
  | cancels rest hf ht => subst ht; exact .inl hr
  | emits v hp ht => subst ht; cases hr
  | stops why rest hw hst ht => subst ht; cases hr
  | calls rest hb hc => obtain hp | ⟨a, hp⟩ := State.callSource_pos hc <;> cases hp.symm.trans hr
  | iterates rest u a hf hb hc hu hfin => exact absurd hr ((State.finishIteration_empty hu hfin).2 r)

/-- A length becomes the current frame's when the step draws a frame of that many octets. -/
theorem step_frameLen {s t : State} (h : step s = .next t) {n : Nat} (hn : t.pos.frameLen = some n) :
    s.pos.frameLen = some n ∨
      ∃ os, s.answer = some (.returned os false) ∧ t.answers = s.drawn.answers ∧ t.polls = s.drawn.polls ∧ n = os.length := by
  cases step_moves h with
  | quiet q => exact .inl (q.pos.frameLen hn)
  | cancels rest hf ht => subst ht; exact .inl hn
  | emits v hp ht => subst ht; cases hn
  | stops why rest hw hst ht => subst ht; cases hn
  | calls rest hb hc =>
    obtain ⟨os, hans, rfl, rfl⟩ := State.callSource_draws hc hn
    exact .inr ⟨os, hans, rfl, rfl, rfl⟩
  | iterates rest u a hf hb hc hu hfin =>
    rw [(State.finishIteration_empty hu hfin).1] at hn
    cases hn

/-- Settles O50: the line, the record and the length of a step. -/
theorem linesGrowByRecordsOnly : Obligations.LinesGrowByRecordsOnly := fun _ _ hs h =>
  ⟨step_lines hs h, fun _ hr => step_comesToStep4 hs h hr, fun _ hn => step_frameLen h hn⟩

end Sys2Proof.Machine
end

section
/-! The conditions (60_exceptions R120 to R124): their codes, and the source that could not be initialised, which comes before all
else (R123, R127; 70_reset_and_hazards R144). -/

namespace Sys2Proof.Machine

section
/-! The source could not be initialised. -/
variable {s : State} (hu : s.handle = .unavailable)
include hu

/-- LOOP_ITER stops a running loop at step 1, in the middle of an iteration too. -/
theorem execLoopIter_unavailable (hp : ∀ why, s.pos ≠ .stopped why) :
    execLoopIter s = .next (s.fresh.stop .sourceUnavailable) := by
  rw [execLoopIter, if_neg fun h => h.1 hu, State.acquireStep_unavailable hu hp]
  rfl

/-- The system's own step stops a running loop, also where a transaction is open. -/
theorem State.advance_unavailable (hp : ∀ why, s.pos ≠ .stopped why) :
    s.advance = .next (s.fresh.stop .sourceUnavailable) :=
  if_pos ⟨hu, (LoopPos.running_iff _).2 hp⟩

/-- The block sees no request. -/
theorem exec_parse_unavailable {n : Nat} (hn : n ≤ s.config.capacity) : exec (.parse n) s = .next s.fresh := by
  simp [exec, execParse, hu, hn]

end

/-- Settles O30: the source is tested before the phase, the position and the flag. -/
theorem sourceUnavailableStopsBeforeStart : Obligations.SourceUnavailableStopsBeforeStart := by
  rintro s _ hu rfl
  refine ⟨fun hp => ⟨?_, ?_, fun hs => ?_⟩, fun n hn => exec_parse_unavailable hu hn⟩
  · exact State.acquireStep_unavailable hu hp
  · exact execLoopIter_unavailable hu hp
  · exact (step_of_script_nil hs).trans (State.advance_unavailable hu hp)

/-- Settles O56: each row of R124's table, and a response's status by the condition it reports. -/
theorem conditionCodes : Obligations.ConditionCodes :=
  ⟨rfl, rfl, rfl, rfl, rfl, rfl, rfl, fun _ => rfl, rfl⟩

end Sys2Proof.Machine
end

section
/-! RESET and the hazards (70_reset_and_hazards R140 to R142, R145, R152, R153): the open transaction abandoned, the one fault, and
the answer that a busy block owes. -/

namespace Sys2Proof.Machine

/-! ## The answer -/

/-- A busy block has a source that was initialised (70_reset_and_hazards R144). -/
theorem State.Inv.handle_ne_of_busy {s : State} (h : s.Inv) (hb : s.phase = .busy) : s.handle ≠ .unavailable := fun hu =>
  absurd (hb.symm.trans (h.unstarted hu).1) (by decide)

/-- From step 3 the response to the loop's own request takes it to step 4 with the buffer's record, or to step 5 (41_environment
R104, R105). -/
theorem State.afterResponse_respond (s : State) (n : Nat) :
    LoopPos.afterResponse n (s.respond n).value (.step3 n) = if 14 ≤ n then .step4 (recordFrom s.fbOctet n) else .step5 := by
  rw [LoopPos.afterResponse_own, State.respond_eq]
  split_ifs <;> rfl

/-- Settles O51: by the invariant the response offered is DECODE's on the buffer as it stands, and the system's own step takes it. -/
theorem busyBlockIsAnswered : Obligations.BusyBlockIsAnswered := by
  intro s hs hb hscript
  obtain ⟨-, hrsp, -, -⟩ := hs.busy hb
  have hstep := (step_of_script_nil hscript).trans (State.advance_takes hb (hs.handle_ne_of_busy hb) hrsp)
  have hown (hp : s.pos = .step3 s.reqLen) : (s.fresh.take (s.respond s.reqLen).value).pos =
      if 14 ≤ s.reqLen then .step4 (recordFrom s.fbOctet s.reqLen) else .step5 := by
    rw [State.take_pos, State.fresh_pos, State.fresh_reqLen, hp, State.afterResponse_respond]
  exact ⟨_, hstep, rfl, rfl, rfl, rfl, rfl, rfl, rfl, fun hp h14 => (hown hp).trans (if_pos h14),
    fun hp hn => (hown hp).trans (if_neg (Nat.not_le.2 hn)), fun hp => if_neg hp⟩

/-- A response that is not the one a busy block offers is not taken (70_reset_and_hazards R152; log 12). -/
theorem State.takeIfOffered_not_offered {s : State} {r : Response} (h : ¬ (s.phase = .busy ∧ s.rsp = some r)) :
    s.takeIfOffered r = s.fresh := if_neg h

/-- Settles O19: both response rows take the offered response only. -/
theorem noResponseWithoutRequest : Obligations.NoResponseWithoutRequest := fun _ =>
  ⟨fun _ h => congrArg Host.Outcome.next (State.takeIfOffered_not_offered h),
    fun h => congrArg Host.Outcome.next (State.takeIfOffered_not_offered h)⟩

/-! ## RESET -/

/-- RESET ends the transaction without handing a response over (70_reset_and_hazards R140, R141). -/
theorem exec_reset (s : State) : exec .reset s = .next s.fresh.endTransaction := rfl

/-- Settles O21: the block is idle, so a response row finds nothing to take. -/
theorem resetAbandonsTransaction : Obligations.ResetAbandonsTransaction := fun s =>
  ⟨s.freeLatch, s.fresh.endTransaction, s.freeLatch_lt, rfl, exec_reset s,
    fun r => congrArg Host.Outcome.next (State.takeIfOffered_idle rfl (.ok r)),
    congrArg Host.Outcome.next (State.takeIfOffered_idle rfl .truncated)⟩

/-- Settles O22: an idle block on the same buffer accepts the request. -/
theorem parseAfterResetIsLikeAnyOther : Obligations.ParseAfterResetIsLikeAnyOther := by
  intro n s t hh hn ht
  cases (exec_reset s).symm.trans ht
  refine ⟨_, exec_parse_idle rfl hh hn, rfl, rfl, rfl, ?_⟩
  rw [State.accept_rsp, State.respond_eq]
  split_ifs <;> rfl

/-! ## The fault -/

/-- An iteration of a busy block calls the source, and is the race. -/
theorem execLoopIter_busy {s : State} (hb : s.phase = .busy) (hh : s.handle ≠ .unavailable)
    (hp : ∀ why, s.pos ≠ .stopped why) : execLoopIter s = .fault .bufferRace := by
  rw [execLoopIter, if_neg (by simp [hb]), State.acquireStep_busy hh hb hp]

/-- Settles O31: step 1 tests the race before the flag and the call, and an iteration begins with step 1. -/
theorem acquireWhileBusyIsBufferRace : Obligations.AcquireWhileBusyIsBufferRace := fun _ hb hh hp =>
  ⟨State.acquireStep_busy hh hb hp, execLoopIter_busy hb hh hp⟩

/-- A whole PARSE goes on or is refused. -/
theorem State.parseWhole_no_fault (s : State) (n : Nat) (f : Fault) : s.parseWhole n ≠ .fault f := by
  unfold State.parseWhole
  split <;> exact nofun

/-- The rest of an iteration does not fault. -/
theorem State.finishIteration_no_fault (s : State) (a : AcqResult) (f : Fault) : s.finishIteration a ≠ .fault f := by
  cases a with
  | failed => exact nofun
  | ok n =>
    simp only [State.finishIteration]
    split
    next t _ => split <;> exact nofun
    next f' hf => exact absurd hf (s.parseWhole_no_fault n f')
    next => exact nofun

/-- The fault of an iteration is that of its step 1. -/
theorem execLoopIter_fault {s : State} {f : Fault} (h : execLoopIter s = .fault f) : s.acquireStep = .fault f := by
  unfold execLoopIter at h
  split at h
  next => cases h
  next =>
    split at h
    next t _ =>
      split at h
      next a _ => exact absurd h (t.finishIteration_no_fault a f)
      next => cases h
    next f' hf => cases h; exact hf
    next => cases h

/-- PARSE goes on or is refused. -/
theorem execParse_no_fault (n : Nat) (s : State) (f : Fault) : execParse n s ≠ .fault f := by
  unfold execParse
  split
  next =>
    split
    next => exact nofun
    next => split <;> exact nofun
  next => exact nofun

/-- An operation that does not call the source goes on or is refused. -/
theorem exec_no_fault {i : Instr} (hacq : i ≠ .acquire) (hloop : i ≠ .loopIter) (s : State) (f : Fault) :
    exec i s ≠ .fault f := by
  cases i with
  | acquire => exact absurd rfl hacq
  | loopIter => exact absurd rfl hloop
  | checkLen n => simp only [exec, execCheckLen]; split <;> exact nofun
  | decode n h => simp only [exec, execDecode]; split <;> exact nofun
  | makeRecord n h => simp only [exec, execMakeRecord]; split <;> exact nofun
  | parse n => exact execParse_no_fault n s f
  | _ => exact nofun

/-- Settles O32: no operation faults but those of step 1, whose only fault is the call of a busy block's source. -/
theorem onlyAcquisitionWhileBusyFaults : Obligations.OnlyAcquisitionWhileBusyFaults := by
  intro i s f h
  by_cases hacq : i = .acquire
  · subst hacq; exact ⟨rfl, State.acquireStep_fault h, .inl rfl⟩
  by_cases hloop : i = .loopIter
  · subst hloop; exact ⟨rfl, State.acquireStep_fault (execLoopIter_fault h), .inr rfl⟩
  exact absurd h (exec_no_fault hacq hloop s f)

end Sys2Proof.Machine
end
